-- ==== Sys2Proof/Word.lean ====
section
/-! DEFINITION. The word types of the PC-core (spec/00_scope.md R10: u4, u8, u16), the sensor entry that a
request carries (spec/10_state.md R31) and the codes a decoder of the PC-core reads. -/

namespace Sys2Proof

/-- u8, R10. -/
abbrev Byte := BitVec 8

/-- u4, R10. -/
abbrev Nibble := BitVec 4

/-- u16, R10. -/
abbrev Half := BitVec 16

/-- One entry of BUILD_SENSOR_FRAME's `entries` operand, R31. -/
structure SensorEntry where
  typeCode     : Nibble
  sensorNumber : Nibble
  raw          : Half
  age          : Byte
deriving DecidableEq, Repr

/-- The fixed sensor type names of R174. -/
inductive TypeName where
  | temp
  | hum
  | press
  | gen
deriving DecidableEq, Repr

/-- What the decoders of the PC-core read, one constructor for each decoder (column "format" of
spec/opcode_table.json; `wire.body` and `wire.body0` are one decoder, the dispatcher of R160). -/
inductive Code where
  /-- `iface.op`: a request, the 4-bit selector and the operand bytes (R30, R73). -/
  | request (op : Nibble) (operands : List Byte)
  /-- `wire.byte0`: the byte at the head of the buffer (R132). -/
  | head (byte : Byte)
  /-- `wire.body`, `wire.body0`: a validated body (R160). -/
  | body (bytes : List Byte)
  /-- `tlv.type_and_number`: the node of the report and the four bytes of an entry (R65, R66). -/
  | entry (nodeId typeAndNumber valueHi valueLo age : Byte)
  /-- `actuator.mode`: the operands of R182, the mode as its wire byte. -/
  | mode (nodeId modeSel actuatorId pwmValue : Byte)
deriving DecidableEq, Repr

end Sys2Proof
end

