-- ==== Sys2Proof/Config.lean ====
section
/-! DEFINITION. The design-time parameters of the PC-core, each a named constant with the value of
spec/00_scope.md R8. No request reads or writes one (spec/10_state.md R25). -/

namespace Sys2Proof

/-- `START_BYTE`: the frame start sentinel. -/
def Config.startByte : Byte := 0x55#8

/-- `CRC_POLY`: the generator polynomial, its top bit implicit. -/
def Config.crcPoly : Byte := 0x31#8

/-- `CRC_INIT`: the CRC register before the first byte. -/
def Config.crcInit : Byte := 0x00#8

/-- `MIN_BUF`: the buffer length below which the reassembler waits. -/
abbrev Config.minBuf : Nat := 5

/-- `FRAME_OVERHEAD`: the bytes of a frame outside its body. -/
abbrev Config.frameOverhead : Nat := 3

/-- `MAX_BODY`: the largest body. -/
abbrev Config.maxBody : Nat := 255

/-- `MAX_PAYLOAD`: `MAX_BODY - 2`. -/
abbrev Config.maxPayload : Nat := 253

/-- `MAX_FRAME`: `MAX_BODY + FRAME_OVERHEAD`. -/
abbrev Config.maxFrame : Nat := 258

/-- `CMD_SENSOR_REPORT`: the command code of a sensor report. -/
def Config.cmdSensorReport : Byte := 0x01#8

/-- `CMD_ACTUATOR`: the command code of an actuator command. -/
def Config.cmdActuator : Byte := 0x20#8

/-- `TLV_ENTRY_SIZE`: the bytes of a TLV entry. -/
abbrev Config.tlvEntrySize : Nat := 4

/-- `TYPE_NAMES`: code 0 is TEMP. -/
def Config.typeTemp : Nibble := 0#4

/-- `TYPE_NAMES`: code 1 is HUM. -/
def Config.typeHum : Nibble := 1#4

/-- `TYPE_NAMES`: code 2 is PRESS; every other code is GEN. -/
def Config.typePress : Nibble := 2#4

/-- `MODE_OFF`. -/
def Config.modeOff : Byte := 0x00#8

/-- `MODE_ON`. -/
def Config.modeOn : Byte := 0x01#8

/-- `MODE_PWM`. -/
def Config.modePwm : Byte := 0x02#8

/-- `RX_BUF_CAP`: the capacity of the buffer in the byte-serial hardware (R21, R143). -/
abbrev Config.rxBufCap : Nat := 258

/-- `MAX_READINGS_PER_BODY` (R168). -/
abbrev Config.maxReadingsPerBody : Nat := 63

end Sys2Proof
end

