-- ==== Sys2Proof/Syntax.lean ====
section
/-! DEFINITION. The instructions: one constructor for each row of spec/opcode_table.json, in the table's order,
with the operands spec/10_state.md R31 (requests) or the row's own fields give it. -/

namespace Sys2Proof

/-- The rows of spec/opcode_table.json. The first sixteen are the requests of spec/30_encoding.md R74; the others
are the cases of the decoders inside a request (log entry 6). -/
inductive Instr where
  /-- RESET, R230. -/
  | reset
  /-- FEED_BYTE, R139. -/
  | feedByte (x : Byte)
  /-- CRC8, R100. -/
  | crc8 (data : List Byte)
  /-- FRAME_ENCODE, R110. -/
  | frameEncode (command nodeId : Byte) (payload : List Byte)
  /-- FRAME_VALIDATE, R113. -/
  | frameValidate (candidate : List Byte)
  /-- DECODE_BODY, R160. -/
  | decodeBody (body : List Byte)
  /-- BUILD_SENSOR_FRAME, R180. -/
  | buildSensorFrame (nodeId : Byte) (entries : List SensorEntry)
  /-- BUILD_ACTUATOR_FRAME, R182; `modeSel` is the mode's wire byte (R31). -/
  | buildActuatorFrame (nodeId actuatorId modeSel pwmValue : Byte)
  /-- FEED, R140. -/
  | feed (chunk : List Byte)
  /-- RESERVED_9, R75. -/
  | reserved9
  /-- RESERVED_A, R75. -/
  | reservedA
  /-- RESERVED_B, R75. -/
  | reservedB
  /-- RESERVED_C, R75. -/
  | reservedC
  /-- RESERVED_D, R75. -/
  | reservedD
  /-- RESERVED_E, R75. -/
  | reservedE
  /-- RESERVED_F, R75. -/
  | reservedF
  /-- FRAME_START, R132: the byte at the buffer head is the sentinel. -/
  | frameStart
  /-- RESYNC_DROP, R132: the byte at the buffer head is `head`, not the sentinel. -/
  | resyncDrop (head : Byte)
  /-- CMD_SENSOR_REPORT, R162. -/
  | cmdSensorReport (nodeId : Byte) (payload : List Byte)
  /-- CMD_ACTUATOR, R163. -/
  | cmdActuator (nodeId : Byte) (payload : List Byte)
  /-- CMD_UNKNOWN, R164. -/
  | cmdUnknown (command nodeId : Byte) (payload : List Byte)
  /-- SHORT_BODY, R161: a body of 0 or 1 bytes. -/
  | shortBody (body : List Byte)
  /-- TLV_TYPE_TEMP, R174. -/
  | tlvTypeTemp (nodeId : Byte) (sensorNumber : Nibble) (valueHi valueLo age : Byte)
  /-- TLV_TYPE_HUM, R174. -/
  | tlvTypeHum (nodeId : Byte) (sensorNumber : Nibble) (valueHi valueLo age : Byte)
  /-- TLV_TYPE_PRESS, R174. -/
  | tlvTypePress (nodeId : Byte) (sensorNumber : Nibble) (valueHi valueLo age : Byte)
  /-- TLV_TYPE_GEN, R174: every type code from 3 to 15. -/
  | tlvTypeGen (nodeId : Byte) (typeCode sensorNumber : Nibble) (valueHi valueLo age : Byte)
  /-- MODE_OFF, R183. -/
  | modeOff (nodeId actuatorId pwmValue : Byte)
  /-- MODE_ON, R183. -/
  | modeOn (nodeId actuatorId pwmValue : Byte)
  /-- MODE_PWM, R183. -/
  | modePwm (nodeId actuatorId pwmValue : Byte)
  /-- MODE_INVALID, R183: any mode byte from 0x03 to 0xFF. -/
  | modeInvalid (nodeId modeSel actuatorId pwmValue : Byte)
deriving DecidableEq, Repr

end Sys2Proof
end

