-- ==== Sys2Proof/WellFormed.lean ====
section
/-! DEFINITION. Which terms of Instr stand for a code of their row: the conditions spec/opcode_table.json puts on
the rows that a mask and a match alone do not describe. A request has none: the request port puts no limit on its
operands (spec/10_state.md R32). -/

namespace Sys2Proof

/-- The mode bytes of R69 and R183. -/
def isMode (m : Byte) : Bool :=
  m == Config.modeOff || m == Config.modeOn || m == Config.modePwm

/-- The type codes with a name of their own, R174. -/
def isNamedType (t : Nibble) : Bool :=
  t == Config.typeTemp || t == Config.typeHum || t == Config.typePress

/-- The command codes of the closed set of R64. -/
def isKnownCommand (c : Byte) : Bool :=
  c == Config.cmdSensorReport || c == Config.cmdActuator

/-- An instruction is well formed when its operands lie in its row of spec/opcode_table.json. -/
def Instr.wf : Instr → Bool
  | .resyncDrop head => head != Config.startByte
  | .cmdUnknown command _ _ => !isKnownCommand command
  | .shortBody body => decide (body.length < 2)
  | .tlvTypeGen _ typeCode _ _ _ _ => !isNamedType typeCode
  | .modeInvalid _ modeSel _ _ => !isMode modeSel
  | .reset => true
  | .feedByte _ => true
  | .crc8 _ => true
  | .frameEncode _ _ _ => true
  | .frameValidate _ => true
  | .decodeBody _ => true
  | .buildSensorFrame _ _ => true
  | .buildActuatorFrame _ _ _ _ => true
  | .feed _ => true
  | .reserved9 => true
  | .reservedA => true
  | .reservedB => true
  | .reservedC => true
  | .reservedD => true
  | .reservedE => true
  | .reservedF => true
  | .frameStart => true
  | .cmdSensorReport _ _ => true
  | .cmdActuator _ _ => true
  | .tlvTypeTemp _ _ _ _ _ => true
  | .tlvTypeHum _ _ _ _ _ => true
  | .tlvTypePress _ _ _ _ _ => true
  | .modeOff _ _ _ => true
  | .modeOn _ _ _ => true
  | .modePwm _ _ _ => true

end Sys2Proof
end

