-- ==== Sys2Proof/Decode.lean ====
section
/-! DEFINITION. The decoders (spec/30_encoding.md, spec/opcode_table.json), the encoder written from the same tables,
the opcode table as data, and the reading of a bare table word. -/

namespace Sys2Proof

/-! ## Fields of bytes -/

/-- `b >> 4` of R66, a u4. -/
def hiNibble (b : Byte) : Nibble := b.extractLsb' 4 4

/-- `b & 0x0F` of R66, a u4. -/
def loNibble (b : Byte) : Nibble := b.extractLsb' 0 4

/-- `(t << 4) | s` of R180. -/
def packNibbles (t s : Nibble) : Byte := (t.setWidth 8 <<< 4) ||| s.setWidth 8

/-- `(value_hi << 8) | value_lo` of R67: big-endian. -/
def rawOf (hi lo : Byte) : Half := (hi.setWidth 16 <<< 8) ||| lo.setWidth 16

/-- `raw[15:8]` of R180. -/
def rawHi (raw : Half) : Byte := raw.extractLsb' 8 8

/-- `raw[7:0]` of R180. -/
def rawLo (raw : Half) : Byte := raw.extractLsb' 0 8

/-! ## The request decoder, `iface.op` -/

/-- Why the operand bytes of a request are no operands of its operation (R31). -/
inductive DecodeError where
  /-- fewer bytes than the scalar operands of `op` take -/
  | missingOperand (op : Nibble)
  /-- bytes after the last operand of `op` -/
  | extraOperand (op : Nibble)
  /-- an `entries` operand whose bytes are not whole entries -/
  | raggedEntries (op : Nibble)
deriving DecidableEq, Repr

/-- The `entries` operand of BUILD_SENSOR_FRAME, four bytes an entry in the packing of R66 (log entry 5). -/
def entriesOfBytes : List Byte → Option (List SensorEntry)
  | [] => some []
  | tn :: hi :: lo :: age :: rest =>
    match entriesOfBytes rest with
    | some es => some (⟨hiNibble tn, loNibble tn, rawOf hi lo, age⟩ :: es)
    | none => none
  | _ => none

/-- The bytes of one entry, in the packing of R66. -/
def bytesOfEntry (e : SensorEntry) : List Byte :=
  [packNibbles e.typeCode e.sensorNumber, rawHi e.raw, rawLo e.raw, e.age]

/-- The operation codes of R74 with the operands of R31 in R31's order, a sequence operand last and taking every
byte that is left (log entry 5). A reserved selector is its reserved row whatever follows it (R75). -/
def decodeRequest (op : Nibble) (operands : List Byte) : Except DecodeError Instr :=
  match op.toNat with
  | 0 =>
    match operands with
    | [] => .ok .reset
    | _ :: _ => .error (.extraOperand op)
  | 1 =>
    match operands with
    | [x] => .ok (.feedByte x)
    | [] => .error (.missingOperand op)
    | _ :: _ :: _ => .error (.extraOperand op)
  | 2 => .ok (.crc8 operands)
  | 3 =>
    match operands with
    | command :: nodeId :: payload => .ok (.frameEncode command nodeId payload)
    | _ => .error (.missingOperand op)
  | 4 => .ok (.frameValidate operands)
  | 5 => .ok (.decodeBody operands)
  | 6 =>
    match operands with
    | nodeId :: rest =>
      match entriesOfBytes rest with
      | some entries => .ok (.buildSensorFrame nodeId entries)
      | none => .error (.raggedEntries op)
    | [] => .error (.missingOperand op)
  | 7 =>
    match operands with
    | [nodeId, actuatorId, modeSel, pwmValue] => .ok (.buildActuatorFrame nodeId actuatorId modeSel pwmValue)
    | _ :: _ :: _ :: _ :: _ :: _ => .error (.extraOperand op)
    | _ => .error (.missingOperand op)
  | 8 => .ok (.feed operands)
  | 9 => .ok .reserved9
  | 10 => .ok .reservedA
  | 11 => .ok .reservedB
  | 12 => .ok .reservedC
  | 13 => .ok .reservedD
  | 14 => .ok .reservedE
  | _ => .ok .reservedF

/-! ## The decoders inside a request -/

/-- `wire.byte0`, R132: the detector compares the whole byte with the sentinel. -/
def decodeHead (b : Byte) : Instr :=
  if b = Config.startByte then .frameStart else .resyncDrop b

/-- `wire.body` and `wire.body0`: the length test comes before the command rows (R160, R209). -/
def decodeCommand : List Byte → Instr
  | command :: nodeId :: payload =>
    if command = Config.cmdSensorReport then .cmdSensorReport nodeId payload
    else if command = Config.cmdActuator then .cmdActuator nodeId payload
    else .cmdUnknown command nodeId payload
  | body => .shortBody body

/-- `tlv.type_and_number`, R66 and R174. -/
def decodeEntry (nodeId typeAndNumber hi lo age : Byte) : Instr :=
  let t := hiNibble typeAndNumber
  let n := loNibble typeAndNumber
  if t = Config.typeTemp then .tlvTypeTemp nodeId n hi lo age
  else if t = Config.typeHum then .tlvTypeHum nodeId n hi lo age
  else if t = Config.typePress then .tlvTypePress nodeId n hi lo age
  else .tlvTypeGen nodeId t n hi lo age

/-- `actuator.mode`, R69 and R183. -/
def decodeMode (nodeId modeSel actuatorId pwmValue : Byte) : Instr :=
  if modeSel = Config.modeOff then .modeOff nodeId actuatorId pwmValue
  else if modeSel = Config.modeOn then .modeOn nodeId actuatorId pwmValue
  else if modeSel = Config.modePwm then .modePwm nodeId actuatorId pwmValue
  else .modeInvalid nodeId modeSel actuatorId pwmValue

/-- The decoder: total on every code; only a request can be rejected, by name. -/
def decode : Code → Except DecodeError Instr
  | .request op operands => decodeRequest op operands
  | .head b => .ok (decodeHead b)
  | .body bytes => .ok (decodeCommand bytes)
  | .entry nodeId tn hi lo age => .ok (decodeEntry nodeId tn hi lo age)
  | .mode nodeId sel actuatorId pwm => .ok (decodeMode nodeId sel actuatorId pwm)

/-! ## The encoder -/

/-- The code of an instruction, from R31, R64, R66, R69 and R74. -/
def encode : Instr → Code
  | .reset => .request 0x0#4 []
  | .feedByte x => .request 0x1#4 [x]
  | .crc8 data => .request 0x2#4 data
  | .frameEncode command nodeId payload => .request 0x3#4 (command :: nodeId :: payload)
  | .frameValidate candidate => .request 0x4#4 candidate
  | .decodeBody body => .request 0x5#4 body
  | .buildSensorFrame nodeId entries => .request 0x6#4 (nodeId :: entries.flatMap bytesOfEntry)
  | .buildActuatorFrame nodeId actuatorId modeSel pwmValue =>
    .request 0x7#4 [nodeId, actuatorId, modeSel, pwmValue]
  | .feed chunk => .request 0x8#4 chunk
  | .reserved9 => .request 0x9#4 []
  | .reservedA => .request 0xA#4 []
  | .reservedB => .request 0xB#4 []
  | .reservedC => .request 0xC#4 []
  | .reservedD => .request 0xD#4 []
  | .reservedE => .request 0xE#4 []
  | .reservedF => .request 0xF#4 []
  | .frameStart => .head Config.startByte
  | .resyncDrop head => .head head
  | .cmdSensorReport nodeId payload => .body (Config.cmdSensorReport :: nodeId :: payload)
  | .cmdActuator nodeId payload => .body (Config.cmdActuator :: nodeId :: payload)
  | .cmdUnknown command nodeId payload => .body (command :: nodeId :: payload)
  | .shortBody body => .body body
  | .tlvTypeTemp nodeId n hi lo age => .entry nodeId (packNibbles Config.typeTemp n) hi lo age
  | .tlvTypeHum nodeId n hi lo age => .entry nodeId (packNibbles Config.typeHum n) hi lo age
  | .tlvTypePress nodeId n hi lo age => .entry nodeId (packNibbles Config.typePress n) hi lo age
  | .tlvTypeGen nodeId t n hi lo age => .entry nodeId (packNibbles t n) hi lo age
  | .modeOff nodeId actuatorId pwm => .mode nodeId Config.modeOff actuatorId pwm
  | .modeOn nodeId actuatorId pwm => .mode nodeId Config.modeOn actuatorId pwm
  | .modePwm nodeId actuatorId pwm => .mode nodeId Config.modePwm actuatorId pwm
  | .modeInvalid nodeId sel actuatorId pwm => .mode nodeId sel actuatorId pwm

/-- A code no bit of which the decoder passes over: the operands a reserved request carries are the only bits
with no reader (R75: such a request is refused whatever follows its selector). -/
def Code.canonical : Code → Bool
  | .request op operands => decide (op.toNat < 9) || operands.isEmpty
  | .head _ => true
  | .body _ => true
  | .entry _ _ _ _ _ => true
  | .mode _ _ _ _ => true

/-! ## The opcode table as data -/

/-- The column "format" of spec/opcode_table.json. -/
inductive Format where
  | ifaceOp
  | wireByte0
  | wireBody0
  | wireBody
  | tlvTypeAndNumber
  | actuatorMode
deriving DecidableEq, Repr

/-- The columns "match" and "mask" of a row, and the two ways the table writes a row they do not describe. -/
inductive RowPattern where
  /-- the masked field equals the match -/
  | masked (mask value : Byte)
  /-- a range of field values, both ends included -/
  | range (low high : Nat)
  /-- every field value but these ("applies when … does not match") -/
  | otherThan (values : List Byte)
  /-- a sequence shorter than this many bytes -/
  | shorterThan (n : Nat)
deriving DecidableEq, Repr

/-- One row of spec/opcode_table.json. -/
structure TableRow where
  format  : Format
  pattern : RowPattern
deriving DecidableEq, Repr

/-- The row of each instruction, copied from spec/opcode_table.json in its order. -/
def Instr.row : Instr → TableRow
  | .reset => ⟨.ifaceOp, .masked 0x0F#8 0x00#8⟩
  | .feedByte _ => ⟨.ifaceOp, .masked 0x0F#8 0x01#8⟩
  | .crc8 _ => ⟨.ifaceOp, .masked 0x0F#8 0x02#8⟩
  | .frameEncode _ _ _ => ⟨.ifaceOp, .masked 0x0F#8 0x03#8⟩
  | .frameValidate _ => ⟨.ifaceOp, .masked 0x0F#8 0x04#8⟩
  | .decodeBody _ => ⟨.ifaceOp, .masked 0x0F#8 0x05#8⟩
  | .buildSensorFrame _ _ => ⟨.ifaceOp, .masked 0x0F#8 0x06#8⟩
  | .buildActuatorFrame _ _ _ _ => ⟨.ifaceOp, .masked 0x0F#8 0x07#8⟩
  | .feed _ => ⟨.ifaceOp, .masked 0x0F#8 0x08#8⟩
  | .reserved9 => ⟨.ifaceOp, .masked 0x0F#8 0x09#8⟩
  | .reservedA => ⟨.ifaceOp, .masked 0x0F#8 0x0A#8⟩
  | .reservedB => ⟨.ifaceOp, .masked 0x0F#8 0x0B#8⟩
  | .reservedC => ⟨.ifaceOp, .masked 0x0F#8 0x0C#8⟩
  | .reservedD => ⟨.ifaceOp, .masked 0x0F#8 0x0D#8⟩
  | .reservedE => ⟨.ifaceOp, .masked 0x0F#8 0x0E#8⟩
  | .reservedF => ⟨.ifaceOp, .masked 0x0F#8 0x0F#8⟩
  | .frameStart => ⟨.wireByte0, .masked 0xFF#8 0x55#8⟩
  | .resyncDrop _ => ⟨.wireByte0, .otherThan [0x55#8]⟩
  | .cmdSensorReport _ _ => ⟨.wireBody0, .masked 0xFF#8 0x01#8⟩
  | .cmdActuator _ _ => ⟨.wireBody0, .masked 0xFF#8 0x20#8⟩
  | .cmdUnknown _ _ _ => ⟨.wireBody0, .otherThan [0x01#8, 0x20#8]⟩
  | .shortBody _ => ⟨.wireBody, .shorterThan 2⟩
  | .tlvTypeTemp _ _ _ _ _ => ⟨.tlvTypeAndNumber, .masked 0xF0#8 0x00#8⟩
  | .tlvTypeHum _ _ _ _ _ => ⟨.tlvTypeAndNumber, .masked 0xF0#8 0x10#8⟩
  | .tlvTypePress _ _ _ _ _ => ⟨.tlvTypeAndNumber, .masked 0xF0#8 0x20#8⟩
  | .tlvTypeGen _ _ _ _ _ _ => ⟨.tlvTypeAndNumber, .range 0x30 0xFF⟩
  | .modeOff _ _ _ => ⟨.actuatorMode, .masked 0xFF#8 0x00#8⟩
  | .modeOn _ _ _ => ⟨.actuatorMode, .masked 0xFF#8 0x01#8⟩
  | .modePwm _ _ _ => ⟨.actuatorMode, .masked 0xFF#8 0x02#8⟩
  | .modeInvalid _ _ _ _ => ⟨.actuatorMode, .range 0x03 0xFF⟩

/-- The field value satisfies the pattern of a row. -/
def RowPattern.admitsField (p : RowPattern) (v : Byte) : Bool :=
  match p with
  | .masked mask value => (v &&& mask) == value
  | .range low high => decide (low ≤ v.toNat) && decide (v.toNat ≤ high)
  | .otherThan values => !values.contains v
  | .shorterThan _ => false

/-- The code is one of the row's, by spec/opcode_table.json alone. The command rows read byte 0 of a body of at
least two bytes, since SHORT_BODY is "checked before the command rows". -/
def TableRow.admits (r : TableRow) : Code → Bool
  | .request op _ => r.format == .ifaceOp && r.pattern.admitsField (op.setWidth 8)
  | .head b => r.format == .wireByte0 && r.pattern.admitsField b
  | .body bytes =>
    match bytes with
    | command :: _ :: _ => r.format == .wireBody0 && r.pattern.admitsField command
    | _ =>
      match r with
      | ⟨.wireBody, .shorterThan n⟩ => decide (bytes.length < n)
      | _ => false
  | .entry _ tn _ _ _ => r.format == .tlvTypeAndNumber && r.pattern.admitsField tn
  | .mode _ sel _ _ => r.format == .actuatorMode && r.pattern.admitsField sel

/-! ## A bare table word -/

/-- The bytes of a table word, the first byte lowest. -/
def tableBytes (nbits w : Nat) : List Byte :=
  (List.range ((nbits + 7) / 8)).map fun k => BitVec.ofNat 8 (w >>> (8 * k))

/-- How many operand bytes the scalar operands of an operation take (R31). -/
def scalarOperandBytes (op : Nibble) : Nat :=
  match op.toNat with
  | 1 => 1
  | 3 => 2
  | 6 => 1
  | 7 => 4
  | _ => 0

/-- The bytes, and zero bytes after them up to the length. -/
def padTo (n : Nat) (bytes : List Byte) : List Byte :=
  bytes ++ List.replicate (n - bytes.length) 0x00#8

/-- The code a bare table word stands for (log entry 7). A value that fits the 4-bit selector is a request; a
larger one does not fit it and is read in the first other format, in the table's order, one of whose rows fixes
it: the sentinel, an actuator command, a TLV entry. Operands the word does not give are zero. -/
def tableCode (nbits w : Nat) : Code :=
  match tableBytes nbits w with
  | [] => .request 0x0#4 []
  | b :: rest =>
    if b.toNat < 16 then
      let op : Nibble := loNibble b
      .request op (padTo (scalarOperandBytes op) rest)
    else if b = Config.startByte then .head b
    else if b = Config.cmdActuator then .body (b :: padTo 1 rest)
    else
      .entry 0x00#8 b (rest.getD 0 0x00#8) (rest.getD 1 0x00#8) (rest.getD 2 0x00#8)

/-- The instruction the decoder reads from a bare table word. -/
def decodeTableWord (nbits w : Nat) : Option Instr :=
  match decode (tableCode nbits w) with
  | .ok i => some i
  | .error _ => none

end Sys2Proof
end

