-- ==== Sys2Proof/Machine/State.lean ====
section
/-! DEFINITION. The state of the PC-core (spec/10_state.md R20 to R23, R36), the record the model keeps of a run
(R37; spec/60_exceptions.md R208, R216), and the names of the outcomes (spec/60_exceptions.md R200). -/

namespace Sys2Proof.Machine

/-! ## Names of outcomes -/

/-- The codes that can enter the fault record (R23): BODY_OVERFLOW only, since INVALID_MODE is not recorded and a
refusal is no fault (R207, R208). -/
inductive FaultCode where
  | bodyOverflow
deriving DecidableEq, Repr

/-- The actions of a pass, as R135 names them and with what R200 says each records. -/
inductive PassAction where
  /-- WAIT_SHORT -/
  | waitShort
  /-- WAIT_FRAME -/
  | waitFrame
  /-- RESYNC_DROP, with the byte dropped -/
  | resyncDrop (byte : Byte)
  /-- ACCEPT, with the body -/
  | accept (body : List Byte)
  /-- INTEGRITY_DROP -/
  | integrityDrop
deriving DecidableEq, Repr

/-- The phases of the buffer, R29. -/
inductive Phase where
  | idle
  | shortWait
  | resync
  | frameWait
  | ready
deriving DecidableEq, Repr

/-- A reading, R34. -/
structure Reading where
  typeCode     : Nibble
  nodeId       : Byte
  sensorNumber : Nibble
  raw          : Half
deriving DecidableEq, Repr

/-- The result of FRAME_VALIDATE, R113. -/
inductive ValidateResult where
  | valid (body : List Byte)
  | shapeFail
  | crcFail
deriving DecidableEq, Repr

/-- The dispatch classes of R160. -/
inductive DispatchClass where
  | sensorReport
  | actuatorCommand
  | unknownCommand
  | shortBody
deriving DecidableEq, Repr

/-- The TLV outcomes of R165; `notParsed` is the spec's NONE. -/
inductive TlvOutcome where
  | notParsed
  | noCount
  | complete
  | truncated
deriving DecidableEq, Repr

/-- What DISPATCH returns, R160. -/
structure Decoded where
  cls      : DispatchClass
  readings : List Reading
  tlv      : TlvOutcome
deriving DecidableEq, Repr

/-- The response to one request, with the contents of R33 and the recorded info of R200. `entry` answers a TLV
row run alone (log entry 6). -/
inductive Response where
  /-- RESET: status OK -/
  | done
  /-- FEED_BYTE, FEED: status OK, the bodies and the readings -/
  | fed (bodies : List (List Byte)) (readings : List Reading)
  /-- CRC8: status OK, the checksum -/
  | crc (value : Byte)
  /-- FRAME_ENCODE, BUILD_SENSOR_FRAME, BUILD_ACTUATOR_FRAME: status OK, the frame -/
  | frame (bytes : List Byte)
  /-- FRAME_VALIDATE: status OK, the result -/
  | validated (result : ValidateResult)
  /-- DECODE_BODY: status OK, class, readings and TLV outcome -/
  | decoded (result : Decoded)
  /-- a TLV row run alone: status OK, the type name and the reading -/
  | entry (name : TypeName) (reading : Reading)
  /-- status BODY_OVERFLOW, the attempted body length, no bytes -/
  | bodyOverflow (attempted : Nat)
  /-- status INVALID_MODE, the mode selector, no bytes -/
  | invalidMode (modeSel : Byte)
  /-- status REFUSED, the reserved selector -/
  | refused (op : Nibble)
deriving DecidableEq, Repr

/-- What the host has presented at the port: a request (R30, R73), or one row of an inner format to be run alone
(log entry 6). `probeHead` carries no byte: its code is the byte at the head of the buffer. -/
inductive PortItem where
  | request (op : Nibble) (operands : List Byte)
  | probeHead
  | probeBody (bytes : List Byte)
  | probeEntry (nodeId typeAndNumber valueHi valueLo age : Byte)
  | probeMode (nodeId modeSel actuatorId pwmValue : Byte)
deriving DecidableEq, Repr

/-! ## Stops -/

/-- Where exec stops with a fault. The spec's own fault, BODY_OVERFLOW, is no stop: the machine answers it and
serves the next request (R207, R212), so it is a next state. -/
inductive Fault where
  /-- Raised by FRAME_START and RESYNC_DROP run on a buffer of at least MIN_BUF bytes whose head is not
  the byte the instruction names: for FRAME_START any byte but the sentinel, for RESYNC_DROP the sentinel or any byte
  but its own operand. No step reaches it, since a step takes the row and its operand from the head itself. Safe: the model gives nothing where no hardware runs that row. -/
  | rowNotSelected
deriving DecidableEq, Repr

/-- Where a step stops with a refusal. A request with a reserved selector is no stop: the spec gives it a response
and the next request is served (R75, R212), so it is a next state with `runRefused` set. -/
inductive Refusal where
  /-- Raised by exec for an instruction that has no meaning yet (none in this model). Safe. -/
  | notModelled (mnemonic : String)
  /-- Raised by step for a request whose operand bytes are not the operands of R31 (log entry 5). The spec has no
  such request. Safe: the model gives nothing there. -/
  | malformedRequest (error : DecodeError)
deriving DecidableEq, Repr

/-! ## State -/

/-- The state. `buf` is the PC-core's only storage (R20, R21), `faults` the model's fault record (R23); the other
fields are the model's record of the run (R37). -/
structure State where
  /-- the reassembly buffer, its head first (R21) -/
  buf        : List Byte
  /-- the fault record, a set: no code stands in it twice (R23) -/
  faults     : List FaultCode
  /-- what the host has presented and the core has not served, oldest first (R30, R37) -/
  port       : List PortItem
  /-- the responses given, oldest first (R37) -/
  responses  : List Response
  /-- the actions of each pass, oldest pass first; model-only (R216) -/
  traces     : List (List PassAction)
  /-- the run contains a refused request (R75, R208) -/
  runRefused : Bool
deriving DecidableEq, Repr

/-- The state after power-on reset, R36 and R231: the buffer and the fault record empty; no request presented and
nothing recorded (log entries 1 to 3). -/
def State.reset : State where
  buf        := []
  faults     := []
  port       := []
  responses  := []
  traces     := []
  runRefused := false

/-- What a meaning answers. -/
abbrev Result := Host.Outcome State Fault Refusal

end Sys2Proof.Machine
end

