-- ==== Sys2Proof/Machine/Ops.lean ====
section
/-! DEFINITION. The named operations over the buffer and the record (spec/00_scope.md R13), the ways a request ends
(spec/60_exceptions.md R206 to R208, R212), and where a step finds its code. -/

namespace Sys2Proof.Machine

/-! ## The buffer, R13 and R40 -/

/-- `s[a..b)` of R12. -/
def slice (s : List Byte) (a b : Nat) : List Byte := (s.take b).drop a

/-- `MemRead(i, n)` of R13; the spec uses it only where `i + n ≤ |buf|`. -/
def memRead (buf : List Byte) (i n : Nat) : List Byte := slice buf i (i + n)

/-- `Append(s)` of R13. -/
def append (buf s : List Byte) : List Byte := buf ++ s

/-- `Consume(n)` of R13; the spec uses it only where `n ≤ |buf|`. -/
def consume (n : Nat) (buf : List Byte) : List Byte := buf.drop n

/-- The byte of the buffer at an index, none at or past its length (R40). -/
def State.byteAt (s : State) (i : Nat) : Option Byte := s.buf[i]?

/-- The buffer gets a new value. -/
def State.setBuf (s : State) (buf : List Byte) : State := { s with buf := buf }

/-! ## The record of the run -/

/-- The response of the current request, R33 and R37. -/
def State.respond (s : State) (r : Response) : State := { s with responses := s.responses ++ [r] }

/-- The actions of one pass, R216. -/
def State.recordPass (s : State) (actions : List PassAction) : State :=
  { s with traces := s.traces ++ [actions] }

/-- A code enters the fault record; the record is a set and nothing leaves it (R23). -/
def State.recordFault (s : State) (c : FaultCode) : State :=
  { s with faults := if c ∈ s.faults then s.faults else s.faults ++ [c] }

/-- The run is marked refused, R75 and R208. -/
def State.markRefused (s : State) : State := { s with runRefused := true }

/-! ## How a request ends

There is no handler, no saved state and no return from a fault (R206, R212): after each of these the next request
is served. -/

/-- `raise BODY_OVERFLOW(n)`, R111, R206 and R207: no byte of output, no state but the fault record. This is the
one operation that takes the hardware's fault. -/
def State.raiseBodyOverflow (s : State) (attempted : Nat) : State :=
  (s.recordFault .bodyOverflow).respond (.bodyOverflow attempted)

/-- `raise INVALID_MODE(m)`, R183, R204 and R206: an error response, not recorded. -/
def State.raiseInvalidMode (s : State) (modeSel : Byte) : State := s.respond (.invalidMode modeSel)

/-- `refuse`, R75 and R208: status REFUSED, the run marked refused. -/
def State.refuse (s : State) (op : Nibble) : State := s.markRefused.respond (.refused op)

/-- The end of a request that builds a frame: the frame, or BODY_OVERFLOW with the attempted length. -/
def State.answerFrame (s : State) (r : Except Nat (List Byte)) : State :=
  match r with
  | .ok frame => s.respond (.frame frame)
  | .error attempted => s.raiseBodyOverflow attempted

/-! ## The port -/

/-- The code of a port item. A request and the inner codes the host presents are their own; the code of
`probeHead` is the byte at the head of the buffer, which R131 lets no one look at while the buffer is shorter
than MIN_BUF. -/
def fetch (item : PortItem) (s : State) : Option Code :=
  match item with
  | .request op operands => some (.request op operands)
  | .probeHead => if s.buf.length < Config.minBuf then none else s.buf.head?.map Code.head
  | .probeBody bytes => some (.body bytes)
  | .probeEntry nodeId tn hi lo age => some (.entry nodeId tn hi lo age)
  | .probeMode nodeId sel actuatorId pwm => some (.mode nodeId sel actuatorId pwm)

/-- A code stored where the next step fetches it: at the front of the port, and a head byte at the head of the
buffer with zero bytes behind it up to MIN_BUF. -/
def State.place (s : State) (c : Code) : State :=
  match c with
  | .request op operands => { s with port := .request op operands :: s.port }
  | .head b => { s with port := .probeHead :: s.port, buf := padTo Config.minBuf [b] }
  | .body bytes => { s with port := .probeBody bytes :: s.port }
  | .entry nodeId tn hi lo age => { s with port := .probeEntry nodeId tn hi lo age :: s.port }
  | .mode nodeId sel actuatorId pwm => { s with port := .probeMode nodeId sel actuatorId pwm :: s.port }

end Sys2Proof.Machine
end

