-- ==== Sys2Proof/Machine/Flags.lean ====
section
/-! DEFINITION. The PC-core has no flags and no condition codes (spec/10_state.md R28): every outcome stands in the
response of its request. Here are the numbers spec/60_exceptions.md R200 gives the outcomes. -/

namespace Sys2Proof.Machine

/-- Status OK. -/
def statusOk : Nibble := 0x0#4

/-- Status BODY_OVERFLOW. -/
def statusBodyOverflow : Nibble := 0x1#4

/-- Status INVALID_MODE. -/
def statusInvalidMode : Nibble := 0x2#4

/-- Status REFUSED. -/
def statusRefused : Nibble := 0xF#4

/-- The status of a response, R33 and R200. -/
def Response.status : Response → Nibble
  | .done => statusOk
  | .fed _ _ => statusOk
  | .crc _ => statusOk
  | .frame _ => statusOk
  | .validated _ => statusOk
  | .decoded _ => statusOk
  | .entry _ _ => statusOk
  | .bodyOverflow _ => statusBodyOverflow
  | .invalidMode _ => statusInvalidMode
  | .refused _ => statusRefused

/-- The result code of FRAME_VALIDATE, R200. -/
def ValidateResult.code : ValidateResult → Nat
  | .valid _ => 0
  | .shapeFail => 1
  | .crcFail => 2

end Sys2Proof.Machine
end

