-- ==== Sys2Proof/Machine/Operands.lean ====
section
/-! DEFINITION. The fields of frames, entries and readings (spec/30_encoding.md R60 to R70) and the values derived
from a reading (spec/43_tlv_parser.md R169, R170, R174). -/

namespace Sys2Proof.Machine

/-- The length byte `buf[1]` widened, R133 and R234: a natural number, so `L + 3` does not wrap. Read only where
the buffer holds at least MIN_BUF bytes. -/
def lengthField (buf : List Byte) : Nat := (buf.getD 1 0x00#8).toNat

/-- The frame length a buffer's length byte announces, `zext_9(buf[1]) + 3` (R70). -/
def announcedLength (buf : List Byte) : Nat := lengthField buf + Config.frameOverhead

/-- The length byte of a body of at most MAX_BODY bytes, R110. -/
def lengthByte (body : List Byte) : Byte := BitVec.ofNat 8 body.length

/-- The reading of a TLV entry, R66 and R165; the age byte is not read (R166). -/
def readingOf (nodeId : Byte) (typeCode sensorNumber : Nibble) (valueHi valueLo : Byte) : Reading :=
  { typeCode := typeCode, nodeId := nodeId, sensorNumber := sensorNumber, raw := rawOf valueHi valueLo }

/-- `TYPE_NAME`, R174. -/
def typeName (typeCode : Nibble) : TypeName :=
  if typeCode = Config.typeTemp then .temp
  else if typeCode = Config.typeHum then .hum
  else if typeCode = Config.typePress then .press
  else .gen

/-- The letters of a type name, R174. -/
def typeNameChars : TypeName → List Char
  | .temp => ['T', 'E', 'M', 'P']
  | .hum => ['H', 'U', 'M']
  | .press => ['P', 'R', 'E', 'S', 'S']
  | .gen => ['G', 'E', 'N']

/-- The decimal digits of a number, no padding. -/
def decimal (n : Nat) : List Char := Nat.toDigits 10 n

/-- The decimal digits of a number, at least two, zero-padded ("02d", R169). -/
def decimal2 (n : Nat) : List Char := if n < 10 then '0' :: decimal n else decimal n

/-- `sensor_id` of a reading, R169: derived, not stored. -/
def Reading.sensorId (r : Reading) : List Char :=
  typeNameChars (typeName r.typeCode) ++ '_' :: decimal2 r.nodeId.toNat ++ '_' :: decimal r.sensorNumber.toNat

/-- `value` of a reading, R170: the exact rational `raw / 10`, derived, not stored. -/
def Reading.value (r : Reading) : Rat := mkRat r.raw.toNat 10

/-- The payload bytes of an entry, R66 and R180. -/
def entryBytes (e : SensorEntry) : List Byte :=
  [packNibbles e.typeCode e.sensorNumber, rawHi e.raw, rawLo e.raw, e.age]

/-- The payload of a sensor report, R65 and R180; the count is formed only where it fits its byte. -/
def sensorPayload (entries : List SensorEntry) : List Byte :=
  BitVec.ofNat 8 entries.length :: entries.flatMap entryBytes

/-- The payload of an actuator command, R68 and R182, with the masks of R184. -/
def actuatorPayload (modeByte actuatorId pwmValue : Byte) : List Byte :=
  [modeByte, actuatorId &&& 0x0F#8, pwmValue &&& 0xFF#8]

end Sys2Proof.Machine
end

