-- ==== Sys2Proof/Machine/Crc.lean ====
section
/-! DEFINITION. The CRC-8 checksum generator, spec/40_crc8.md. The CRC register of spec/10_state.md R22 is the
accumulator of `crc8`: it lives only inside one computation. -/

namespace Sys2Proof.Machine

/-- One of the eight shift steps of R101: the high bit is tested before the shift, on the 8-bit register. -/
def crcShift (crc : Byte) : Byte :=
  if crc.msb then (crc <<< 1) ^^^ Config.crcPoly else crc <<< 1

/-- One input byte of R101: XOR into the whole register, then eight shift steps. -/
def crcByte (crc b : Byte) : Byte :=
  crcShift (crcShift (crcShift (crcShift (crcShift (crcShift (crcShift (crcShift (crc ^^^ b))))))))

/-- `CRC8(data)`, R101. -/
def crc8 (data : List Byte) : Byte := data.foldl crcByte Config.crcInit

/-- The table form of R102, with `T[i] = CRC8([i])`. -/
def crc8Table (data : List Byte) : Byte := data.foldl (fun crc b => crc8 [crc ^^^ b]) Config.crcInit

/-- CRC8, R100. -/
def execCrc8 (data : List Byte) (s : State) : Result := .next (s.respond (.crc (crc8 data)))

end Sys2Proof.Machine
end

