-- ==== Sys2Proof/Machine/Codec.lean ====
section
/-! DEFINITION. The frame codec, spec/41_frame_codec.md. -/

namespace Sys2Proof.Machine

/-- `ENCODE`, R110: the frame, or the attempted body length where it exceeds MAX_BODY (R111). -/
def encodeFrame (command nodeId : Byte) (payload : List Byte) : Except Nat (List Byte) :=
  let body := command :: nodeId :: payload
  if Config.maxBody < body.length then .error body.length
  else
    .ok (Config.startByte :: lengthByte body :: body ++ [crc8 (lengthByte body :: body)])

/-- FRAME_ENCODE, R110. -/
def execFrameEncode (command nodeId : Byte) (payload : List Byte) (s : State) : Result :=
  .next (s.answerFrame (encodeFrame command nodeId payload))

/-- `VALIDATE`, R113: the shape tests of R114 and R115, then the integrity test of R116 over `c[1 .. |c|-1)`, then
the body of R117. -/
def validate (c : List Byte) : ValidateResult :=
  if c.length < 3 then .shapeFail
  else if c.head? ≠ some Config.startByte then .shapeFail
  else if c.length ≠ announcedLength c then .shapeFail
  else if c.getLast? ≠ some (crc8 (slice c 1 (c.length - 1))) then .crcFail
  else .valid (slice c 2 (c.length - 1))

/-- FRAME_VALIDATE, R113. -/
def execFrameValidate (candidate : List Byte) (s : State) : Result :=
  .next (s.respond (.validated (validate candidate)))

end Sys2Proof.Machine
end

