-- ==== Sys2Proof/Machine/Tlv.lean ====
section
/-! DEFINITION. Command dispatch and the TLV payload parser, spec/43_tlv_parser.md. -/

namespace Sys2Proof.Machine

/-- The loop of `TLV_PARSE`, R165, over the payload after its count byte: `count` declared entries, stopping at the
first that does not fit (R167). Bytes after the last declared entry are not read (R171). -/
def parseEntries (nodeId : Byte) : Nat → List Byte → List Reading × TlvOutcome
  | 0, _ => ([], .complete)
  | k + 1, tn :: hi :: lo :: _ :: rest =>
    let r := parseEntries nodeId k rest
    (readingOf nodeId (hiNibble tn) (loNibble tn) hi lo :: r.1, r.2)
  | _ + 1, _ => ([], .truncated)

/-- `TLV_PARSE` on the node and the payload of a sensor report, R165; an empty payload is NO_COUNT (R172). -/
def tlvParse (nodeId : Byte) (payload : List Byte) : List Reading × TlvOutcome :=
  match payload with
  | [] => ([], .noCount)
  | count :: entries => parseEntries nodeId count.toNat entries

/-- DISPATCH of a sensor report, R162. -/
def dispatchSensorReport (nodeId : Byte) (payload : List Byte) : Decoded :=
  let r := tlvParse nodeId payload
  { cls := .sensorReport, readings := r.1, tlv := r.2 }

/-- DISPATCH of an actuator command, R163: no readings. -/
def dispatchActuator : Decoded := { cls := .actuatorCommand, readings := [], tlv := .notParsed }

/-- DISPATCH of an unknown command, R164: a defined no-op. -/
def dispatchUnknown : Decoded := { cls := .unknownCommand, readings := [], tlv := .notParsed }

/-- DISPATCH of a body of 0 or 1 bytes, R161: a defined no-op. -/
def dispatchShort : Decoded := { cls := .shortBody, readings := [], tlv := .notParsed }

/-- `DISPATCH`, R160. -/
def dispatch (body : List Byte) : Decoded :=
  match body with
  | command :: nodeId :: payload =>
    if command = Config.cmdSensorReport then dispatchSensorReport nodeId payload
    else if command = Config.cmdActuator then dispatchActuator
    else dispatchUnknown
  | _ => dispatchShort

/-- The readings of a sequence of bodies, body by body (R50, R148). -/
def readingsOf (bodies : List (List Byte)) : List Reading := bodies.flatMap fun b => (dispatch b).readings

/-- DECODE_BODY, R160. -/
def execDecodeBody (body : List Byte) (s : State) : Result := .next (s.respond (.decoded (dispatch body)))

/-- CMD_SENSOR_REPORT, R162: the dispatcher's case. -/
def execCmdSensorReport (nodeId : Byte) (payload : List Byte) (s : State) : Result :=
  .next (s.respond (.decoded (dispatchSensorReport nodeId payload)))

/-- CMD_ACTUATOR, R163: the payload is not read. -/
def execCmdActuator (_nodeId : Byte) (_payload : List Byte) (s : State) : Result :=
  .next (s.respond (.decoded dispatchActuator))

/-- CMD_UNKNOWN, R164: nothing else in the body is read. -/
def execCmdUnknown (_command _nodeId : Byte) (_payload : List Byte) (s : State) : Result :=
  .next (s.respond (.decoded dispatchUnknown))

/-- SHORT_BODY, R161. -/
def execShortBody (_body : List Byte) (s : State) : Result := .next (s.respond (.decoded dispatchShort))

/-- The decode of one TLV entry with its type name, R166 and R174. -/
def State.answerEntry (s : State) (nodeId : Byte) (typeCode sensorNumber : Nibble) (hi lo : Byte) : State :=
  s.respond (.entry (typeName typeCode) (readingOf nodeId typeCode sensorNumber hi lo))

/-- TLV_TYPE_TEMP, R174. -/
def execTlvTypeTemp (nodeId : Byte) (n : Nibble) (hi lo _age : Byte) (s : State) : Result :=
  .next (s.answerEntry nodeId Config.typeTemp n hi lo)

/-- TLV_TYPE_HUM, R174. -/
def execTlvTypeHum (nodeId : Byte) (n : Nibble) (hi lo _age : Byte) (s : State) : Result :=
  .next (s.answerEntry nodeId Config.typeHum n hi lo)

/-- TLV_TYPE_PRESS, R174. -/
def execTlvTypePress (nodeId : Byte) (n : Nibble) (hi lo _age : Byte) (s : State) : Result :=
  .next (s.answerEntry nodeId Config.typePress n hi lo)

/-- TLV_TYPE_GEN, R174: the type code itself is kept in the reading. -/
def execTlvTypeGen (nodeId : Byte) (t n : Nibble) (hi lo _age : Byte) (s : State) : Result :=
  .next (s.answerEntry nodeId t n hi lo)

end Sys2Proof.Machine
end

