-- ==== Sys2Proof/Machine/Reassembler.lean ====
section
/-! DEFINITION. The start-byte synchronizer and the stream reassembly FSM, spec/42_reassembler.md. -/

namespace Sys2Proof.Machine

/-- The phase of a buffer, spec/10_state.md R29. -/
def phase (buf : List Byte) : Phase :=
  if buf.length = 0 then .idle
  else if buf.length < Config.minBuf then .shortWait
  else if buf.head? ≠ some Config.startByte then .resync
  else if buf.length < announcedLength buf then .frameWait
  else .ready

/-- What one iteration of the pass does (R135): it ends the pass with a wait, or takes an action, leaves a shorter
buffer and perhaps accepts a body. -/
inductive PassStep where
  | stop (action : PassAction)
  | go (action : PassAction) (rest : List Byte) (accepted : Option (List Byte))
deriving DecidableEq, Repr

/-- Step 2, R132: exactly one byte is dropped. -/
def resyncStep (buf : List Byte) : PassStep :=
  .go (.resyncDrop (buf.headD 0x00#8)) (consume 1 buf) none

/-- Step 5, R136: the verdict on a slice already removed. SHAPE_FAIL cannot occur here (R119). -/
def judge (slice rest : List Byte) : PassStep :=
  match validate slice with
  | .valid body => .go (.accept body) rest (some body)
  | .crcFail => .go .integrityDrop rest none
  | .shapeFail => .go .integrityDrop rest none

/-- Steps 3 to 5, R133, R134 and R136: the partial-frame wait, or the extraction and its verdict. -/
def frameStep (buf : List Byte) : PassStep :=
  if buf.length < announcedLength buf then .stop .waitFrame
  else judge (memRead buf 0 (announcedLength buf)) (consume (announcedLength buf) buf)

/-- One iteration of the pass, R135. -/
def passStep (buf : List Byte) : PassStep :=
  if buf.length < Config.minBuf then .stop .waitShort
  else if buf.head? ≠ some Config.startByte then resyncStep buf
  else frameStep buf

/-- What a pass leaves and returns. -/
structure PassResult where
  buf    : List Byte
  bodies : List (List Byte)
  trace  : List PassAction
deriving DecidableEq, Repr

/-- The loop of `PASS`, R135, on a bound on its iterations. -/
def passLoop : Nat → List Byte → PassResult
  | 0, buf => { buf := buf, bodies := [], trace := [] }
  | n + 1, buf =>
    match passStep buf with
    | .stop a => { buf := buf, bodies := [], trace := [a] }
    | .go a rest accepted =>
      let r := passLoop n rest
      { buf := r.buf, bodies := accepted.toList ++ r.bodies, trace := a :: r.trace }

/-- `PASS`, R135: at most `n + 1` iterations on a buffer of `n` bytes (R137). -/
def pass (buf : List Byte) : PassResult := passLoop (buf.length + 1) buf

/-- FEED of a chunk, R140: append, one pass, the bodies and the readings of each. -/
def State.feedChunk (s : State) (chunk : List Byte) : State :=
  let r := pass (append s.buf chunk)
  ((s.setBuf r.buf).recordPass r.trace).respond (.fed r.bodies (readingsOf r.bodies))

/-- FEED_BYTE, R139: exactly `FEED([x])`. -/
def execFeedByte (x : Byte) (s : State) : Result := .next (s.feedChunk [x])

/-- FEED, R140. -/
def execFeed (chunk : List Byte) (s : State) : Result := .next (s.feedChunk chunk)

/-- One iteration of the pass run alone (log entry 6): its action recorded, its body and readings answered. -/
def State.runPassStep (s : State) (r : PassStep) : State :=
  match r with
  | .stop a => (s.recordPass [a]).respond (.fed [] [])
  | .go a rest accepted =>
    ((s.setBuf rest).recordPass [a]).respond (.fed accepted.toList (readingsOf accepted.toList))

/-- The short wait run alone, R131: it comes before every other test. -/
def State.shortWait (s : State) : State := s.runPassStep (.stop .waitShort)

/-- FRAME_START, R132 to R136: steps 3 to 5 of an iteration whose head is the sentinel. -/
def execFrameStart (s : State) : Result :=
  if s.buf.length < Config.minBuf then .next s.shortWait
  else if s.buf.head? = some Config.startByte then .next (s.runPassStep (frameStep s.buf))
  else .fault .rowNotSelected

/-- RESYNC_DROP, R132: step 2 of an iteration whose head is `head`, not the sentinel. -/
def execResyncDrop (head : Byte) (s : State) : Result :=
  if s.buf.length < Config.minBuf then .next s.shortWait
  else if s.buf.head? = some head ∧ head ≠ Config.startByte then .next (s.runPassStep (resyncStep s.buf))
  else .fault .rowNotSelected

end Sys2Proof.Machine
end

