-- ==== Sys2Proof/Machine/System.lean ====
section
/-! DEFINITION. RESET (spec/70_reset_and_hazards.md R230) and the reserved selectors (spec/30_encoding.md R75). -/

namespace Sys2Proof.Machine

/-- RESET, R230: `buf <- []`; the fault record is not changed. -/
def execReset (s : State) : Result := .next ((s.setBuf []).respond .done)

/-- RESERVED_9, R75. -/
def execReserved9 (s : State) : Result := .next (s.refuse 0x9#4)

/-- RESERVED_A, R75. -/
def execReservedA (s : State) : Result := .next (s.refuse 0xA#4)

/-- RESERVED_B, R75. -/
def execReservedB (s : State) : Result := .next (s.refuse 0xB#4)

/-- RESERVED_C, R75. -/
def execReservedC (s : State) : Result := .next (s.refuse 0xC#4)

/-- RESERVED_D, R75. -/
def execReservedD (s : State) : Result := .next (s.refuse 0xD#4)

/-- RESERVED_E, R75. -/
def execReservedE (s : State) : Result := .next (s.refuse 0xE#4)

/-- RESERVED_F, R75. -/
def execReservedF (s : State) : Result := .next (s.refuse 0xF#4)

end Sys2Proof.Machine
end

