-- ==== Sys2Proof/Machine/Transmit.lean ====
section
/-! DEFINITION. The transmit path, spec/44_transmit_encoders.md. -/

namespace Sys2Proof.Machine

/-- BUILD_SENSOR_FRAME's frame, R180: the length test comes before the count byte is formed. -/
def sensorFrame (nodeId : Byte) (entries : List SensorEntry) : Except Nat (List Byte) :=
  if Config.maxBody < 3 + Config.tlvEntrySize * entries.length then
    .error (3 + Config.tlvEntrySize * entries.length)
  else encodeFrame Config.cmdSensorReport nodeId (sensorPayload entries)

/-- BUILD_SENSOR_FRAME, R180. -/
def execBuildSensorFrame (nodeId : Byte) (entries : List SensorEntry) (s : State) : Result :=
  .next (s.answerFrame (sensorFrame nodeId entries))

/-- The frame of an actuator command in a mode, R182. -/
def actuatorFrame (modeByte nodeId actuatorId pwmValue : Byte) : Except Nat (List Byte) :=
  encodeFrame Config.cmdActuator nodeId (actuatorPayload modeByte actuatorId pwmValue)

/-- The end of a request that builds an actuator command in a mode. -/
def State.answerActuator (s : State) (modeByte nodeId actuatorId pwmValue : Byte) : State :=
  s.answerFrame (actuatorFrame modeByte nodeId actuatorId pwmValue)

/-- BUILD_ACTUATOR_FRAME, R182, with the mode check of R183 before any byte. -/
def execBuildActuatorFrame (nodeId actuatorId modeSel pwmValue : Byte) (s : State) : Result :=
  if modeSel = Config.modeOff ∨ modeSel = Config.modeOn ∨ modeSel = Config.modePwm then
    .next (s.answerActuator modeSel nodeId actuatorId pwmValue)
  else .next (s.raiseInvalidMode modeSel)

/-- MODE_OFF, R69 and R183: the builder's case. -/
def execModeOff (nodeId actuatorId pwmValue : Byte) (s : State) : Result :=
  .next (s.answerActuator Config.modeOff nodeId actuatorId pwmValue)

/-- MODE_ON, R69 and R183: the builder's case. -/
def execModeOn (nodeId actuatorId pwmValue : Byte) (s : State) : Result :=
  .next (s.answerActuator Config.modeOn nodeId actuatorId pwmValue)

/-- MODE_PWM, R69 and R183: the builder's case. -/
def execModePwm (nodeId actuatorId pwmValue : Byte) (s : State) : Result :=
  .next (s.answerActuator Config.modePwm nodeId actuatorId pwmValue)

/-- MODE_INVALID, R183 and R204: the error, before any byte. -/
def execModeInvalid (_nodeId modeSel _actuatorId _pwmValue : Byte) (s : State) : Result :=
  .next (s.raiseInvalidMode modeSel)

end Sys2Proof.Machine
end

