-- ==== Sys2Proof/Machine/Dispatch.lean ====
section
/-! DEFINITION. One arm for each row of spec/opcode_table.json. -/

namespace Sys2Proof.Machine

/-- The meaning of each instruction. -/
def exec (i : Instr) (s : State) : Host.Outcome State Fault Refusal :=
  match i with
  | .reset => Sys2Proof.Machine.execReset s
  | .feedByte x => Sys2Proof.Machine.execFeedByte x s
  | .crc8 data => Sys2Proof.Machine.execCrc8 data s
  | .frameEncode command nodeId payload => Sys2Proof.Machine.execFrameEncode command nodeId payload s
  | .frameValidate candidate => Sys2Proof.Machine.execFrameValidate candidate s
  | .decodeBody body => Sys2Proof.Machine.execDecodeBody body s
  | .buildSensorFrame nodeId entries => Sys2Proof.Machine.execBuildSensorFrame nodeId entries s
  | .buildActuatorFrame nodeId actuatorId modeSel pwmValue => Sys2Proof.Machine.execBuildActuatorFrame nodeId actuatorId modeSel pwmValue s
  | .feed chunk => Sys2Proof.Machine.execFeed chunk s
  | .reserved9 => Sys2Proof.Machine.execReserved9 s
  | .reservedA => Sys2Proof.Machine.execReservedA s
  | .reservedB => Sys2Proof.Machine.execReservedB s
  | .reservedC => Sys2Proof.Machine.execReservedC s
  | .reservedD => Sys2Proof.Machine.execReservedD s
  | .reservedE => Sys2Proof.Machine.execReservedE s
  | .reservedF => Sys2Proof.Machine.execReservedF s
  | .frameStart => Sys2Proof.Machine.execFrameStart s
  | .resyncDrop head => Sys2Proof.Machine.execResyncDrop head s
  | .cmdSensorReport nodeId payload => Sys2Proof.Machine.execCmdSensorReport nodeId payload s
  | .cmdActuator nodeId payload => Sys2Proof.Machine.execCmdActuator nodeId payload s
  | .cmdUnknown command nodeId payload => Sys2Proof.Machine.execCmdUnknown command nodeId payload s
  | .shortBody body => Sys2Proof.Machine.execShortBody body s
  | .tlvTypeTemp nodeId n hi lo age => Sys2Proof.Machine.execTlvTypeTemp nodeId n hi lo age s
  | .tlvTypeHum nodeId n hi lo age => Sys2Proof.Machine.execTlvTypeHum nodeId n hi lo age s
  | .tlvTypePress nodeId n hi lo age => Sys2Proof.Machine.execTlvTypePress nodeId n hi lo age s
  | .tlvTypeGen nodeId t n hi lo age => Sys2Proof.Machine.execTlvTypeGen nodeId t n hi lo age s
  | .modeOff nodeId actuatorId pwmValue => Sys2Proof.Machine.execModeOff nodeId actuatorId pwmValue s
  | .modeOn nodeId actuatorId pwmValue => Sys2Proof.Machine.execModeOn nodeId actuatorId pwmValue s
  | .modePwm nodeId actuatorId pwmValue => Sys2Proof.Machine.execModePwm nodeId actuatorId pwmValue s
  | .modeInvalid nodeId modeSel actuatorId pwmValue => Sys2Proof.Machine.execModeInvalid nodeId modeSel actuatorId pwmValue s

end Sys2Proof.Machine
end

