-- ==== Sys2Proof/Machine/Step.lean ====
section
/-! DEFINITION. One step serves the oldest item of the port (spec/00_scope.md R7, spec/10_state.md R30). -/

namespace Sys2Proof.Machine

/-- A step takes the oldest item off the port, decodes its code and runs it, whole. An empty port leaves the state
as it is: between requests the core holds its buffer (R217). A head probe on a buffer shorter than MIN_BUF has no
code to fetch and waits (R131). -/
def step (s : State) : Host.Outcome State Fault Refusal :=
  match s.port with
  | [] => .next s
  | item :: rest =>
    let served : State := { s with port := rest }
    match fetch item served with
    | none => .next served.shortWait
    | some code =>
      match decode code with
      | .ok i => exec i served
      | .error e => .refused (.malformedRequest e)

/-- The state with a bare table word's code where the next step fetches it. -/
def State.withFetchWord (s : State) (nbits w : Nat) : State := s.place (tableCode nbits w)

end Sys2Proof.Machine
end

