-- ==== Sys2Proof/Safety.lean ====
section
/-! DEFINITION. The terms in which claims about the PC-core are stated: the invariant of its states, the declarative
reading of a pass (spec/42_reassembler.md R135) and of a frame (spec/30_encoding.md R60), and runs of requests
(spec/10_state.md R37). -/

namespace Sys2Proof.Machine

/-- The frame of a body, R60 and R63: start byte, length byte, body, CRC-8 of length and body. -/
def frameOf (body : List Byte) : List Byte :=
  Config.startByte :: lengthByte body :: (body ++ [crc8 (lengthByte body :: body)])

/-- One shift step of R101 on the register as a number, its constants written out: the high bit tested before the
shift, the polynomial 0x31, the result taken mod 2^8. -/
def crcStepNat (crc : Nat) : Nat :=
  if crc / 128 % 2 = 1 then (2 * crc ^^^ 0x31) % 256 else 2 * crc % 256

/-- The procedure of R101 on numbers, apart from the model's `crc8`: from 0x00, each byte in order is XORed in and
eight shift steps follow. -/
def crcBitwise (data : List Byte) : Nat :=
  data.foldl (fun crc b => Nat.repeat crcStepNat 8 (crc ^^^ b.toNat)) 0x00

/-- What every pass leaves, R138: the phase is IDLE, SHORT_WAIT or FRAME_WAIT. -/
abbrev Stable (buf : List Byte) : Prop :=
  buf.length < Config.minBuf ∨
    (buf[0]? = some Config.startByte ∧ buf.length < (buf.getD 1 0x00#8).toNat + Config.frameOverhead)

/-- A pass as R135 describes it, iteration by iteration: the buffer before, the actions, the bodies accepted, the
buffer after. A slice is its start byte, its length byte, as many body bytes as the length byte says, and its
checksum byte (R60, R134). -/
inductive Passes : List Byte → List PassAction → List (List Byte) → List Byte → Prop where
  /-- step 1, R131 -/
  | waitShort (buf : List Byte) (short : buf.length < Config.minBuf) : Passes buf [.waitShort] [] buf
  /-- step 2, R132 -/
  | resync (b : Byte) (rest buf' : List Byte) (actions : List PassAction) (bodies : List (List Byte))
      (long : Config.minBuf ≤ (b :: rest).length) (junk : b ≠ Config.startByte)
      (more : Passes rest actions bodies buf') : Passes (b :: rest) (.resyncDrop b :: actions) bodies buf'
  /-- step 3, R133 -/
  | waitFrame (L : Byte) (rest : List Byte) (long : Config.minBuf ≤ rest.length + 2)
      (part : rest.length + 2 < L.toNat + Config.frameOverhead) :
      Passes (Config.startByte :: L :: rest) [.waitFrame] [] (Config.startByte :: L :: rest)
  /-- steps 4 and 5, R134 and R136: the checksum matches -/
  | accept (L : Byte) (body rest buf' : List Byte) (actions : List PassAction) (bodies : List (List Byte))
      (size : body.length = L.toNat) (long : Config.minBuf ≤ body.length + 3 + rest.length)
      (more : Passes rest actions bodies buf') :
      Passes (Config.startByte :: L :: (body ++ crc8 (L :: body) :: rest)) (.accept body :: actions)
        (body :: bodies) buf'
  /-- steps 4 and 5, R134 and R136: the checksum does not match -/
  | integrityDrop (L c : Byte) (body rest buf' : List Byte) (actions : List PassAction) (bodies : List (List Byte))
      (size : body.length = L.toNat) (long : Config.minBuf ≤ body.length + 3 + rest.length)
      (bad : c ≠ crc8 (L :: body)) (more : Passes rest actions bodies buf') :
      Passes (Config.startByte :: L :: (body ++ c :: rest)) (.integrityDrop :: actions) bodies buf'

/-- A wait, the last action of every pass (R142 counts the other actions). -/
def PassAction.isWait : PassAction → Bool
  | .waitShort => true
  | .waitFrame => true
  | .resyncDrop _ => false
  | .accept _ => false
  | .integrityDrop => false

/-- A response that reports BODY_OVERFLOW. -/
def Response.isOverflow : Response → Bool
  | .bodyOverflow _ => true
  | .done => false
  | .fed _ _ => false
  | .crc _ => false
  | .frame _ => false
  | .validated _ => false
  | .decoded _ => false
  | .entry _ _ => false
  | .invalidMode _ => false
  | .refused _ => false

/-- A response that reports REFUSED. -/
def Response.isRefused : Response → Bool
  | .refused _ => true
  | .done => false
  | .fed _ _ => false
  | .crc _ => false
  | .frame _ => false
  | .validated _ => false
  | .decoded _ => false
  | .entry _ _ => false
  | .bodyOverflow _ => false
  | .invalidMode _ => false

/-- The invariant of the reachable states: the buffer is stable (R138) and within its capacity (R143), the fault
record is a set that holds BODY_OVERFLOW exactly when a response has reported it (R23, R207), and the run is marked
refused exactly when a response has reported REFUSED (R75, R208). -/
abbrev State.Inv (s : State) : Prop :=
  Stable s.buf ∧ s.buf.length < Config.rxBufCap ∧ s.faults.Nodup ∧
    (FaultCode.bodyOverflow ∈ s.faults ↔ s.responses.any Response.isOverflow = true) ∧
    s.runRefused = s.responses.any Response.isRefused

/-- A run about which a claim may be made: no fault recorded (R23), not marked refused (R208). -/
abbrev State.Clean (s : State) : Prop := s.faults = [] ∧ s.runRefused = false

/-- The rows that may change the buffer: FEED_BYTE, FEED and RESET (R24), and the two rows of the pass run alone. -/
def touchesBuffer : Instr → Bool
  | .reset => true
  | .feedByte _ => true
  | .feed _ => true
  | .frameStart => true
  | .resyncDrop _ => true
  | .crc8 _ => false
  | .frameEncode _ _ _ => false
  | .frameValidate _ => false
  | .decodeBody _ => false
  | .buildSensorFrame _ _ => false
  | .buildActuatorFrame _ _ _ _ => false
  | .reserved9 => false
  | .reservedA => false
  | .reservedB => false
  | .reservedC => false
  | .reservedD => false
  | .reservedE => false
  | .reservedF => false
  | .cmdSensorReport _ _ => false
  | .cmdActuator _ _ => false
  | .cmdUnknown _ _ _ => false
  | .shortBody _ => false
  | .tlvTypeTemp _ _ _ _ _ => false
  | .tlvTypeHum _ _ _ _ _ => false
  | .tlvTypePress _ _ _ _ _ => false
  | .tlvTypeGen _ _ _ _ _ _ => false
  | .modeOff _ _ _ => false
  | .modeOn _ _ _ => false
  | .modePwm _ _ _ => false
  | .modeInvalid _ _ _ _ => false

/-- The requests that read only their operands: CRC8, FRAME_ENCODE, FRAME_VALIDATE, DECODE_BODY,
BUILD_SENSOR_FRAME and BUILD_ACTUATOR_FRAME (R49, R51). -/
def readsOnlyOperands (i : Instr) : Prop :=
  (∃ data, i = .crc8 data) ∨ (∃ c n p, i = .frameEncode c n p) ∨ (∃ c, i = .frameValidate c) ∨
    (∃ b, i = .decodeBody b) ∨ (∃ n es, i = .buildSensorFrame n es) ∨
    (∃ n a m p, i = .buildActuatorFrame n a m p)

/-- A port item whose code, if it has one, decodes: every request but one with malformed operands. -/
def PortItem.decodes : PortItem → Prop
  | .request op operands => ∃ i, decode (.request op operands) = .ok i
  | .probeHead => True
  | .probeBody _ => True
  | .probeEntry _ _ _ _ _ => True
  | .probeMode _ _ _ _ => True

/-- Instructions run one after another, each from the state the one before left. -/
def runAll : List Instr → State → Result
  | [], s => .next s
  | i :: rest, s =>
    match exec i s with
    | .next t => runAll rest t
    | .fault f => .fault f
    | .refused r => .refused r

/-- The observation of a run, R37: the responses, the final buffer, the final fault record. -/
def State.observation (s : State) : List Response × List Byte × List FaultCode := (s.responses, s.buf, s.faults)

end Sys2Proof.Machine
end

