-- ==== Sys2Proof/Certificates/Slice0/Obligations.lean ====
section
/-! DEFINITION. The statements about the model, from the numbered rules of spec/. -/

open Sys2Proof
open Sys2Proof.Machine

/-! ## Encoding -/

/-- Decoding the code of a well-formed instruction gives it back, every operand at every value (R31, R64, R66, R69,
R74). How operands follow the selector is the model's choice, log entries 5 and 6. The selector codes are the spec's
own decision D2 (R73, R74), the operands its decisions D14 to D16 (R31). -/
def Obligations.DecodeOfEncode : Prop :=
  ∀ i : Instr, i.wf = true → decode (encode i) = .ok i

/-- Encoding what was decoded gives the code back: no bit of a canonical code is dropped. The selector codes are the
spec's own decision D2 (R73, R74); how operands follow the selector is the model's choice, log entries 5 and 6. -/
def Obligations.EncodeOfDecode : Prop :=
  ∀ (c : Code) (i : Instr), decode c = .ok i → c.canonical = true → encode i = c

/-- What the decoder answers is well formed and is the row of spec/opcode_table.json that the code lies in, and no
other row of the table admits that code. The selector codes are the spec's own decision D2 (R74), the row of short
bodies its decision D7 (R161), the closed set of commands its decision D9 (R160). -/
def Obligations.DecodeAnswersTheOnlyTableRow : Prop :=
  ∀ (c : Code) (i : Instr), decode c = .ok i →
    i.wf = true ∧ i.row.admits c = true ∧ ∀ j : Instr, j.row.admits c = true → j.row = i.row

/-- Codes written out from R64, R66, R69, R74 and R132 decode to the instructions they stand for. How operands
follow the selector is the model's choice, log entries 5 and 6. The selector codes are the spec's own decision D2
(R74). -/
def Obligations.SampleCodesDecode : Prop :=
  decode (.request 0b0001#4 [0b01010101#8]) = .ok (.feedByte 0x55#8) ∧
    decode (.request 0b0111#4 [0x05#8, 0x03#8, 0x02#8, 0xC8#8]) =
      .ok (.buildActuatorFrame 0x05#8 0x03#8 0x02#8 0xC8#8) ∧
    decode (.head 0b01010101#8) = .ok .frameStart ∧
    decode (.body [0b00100000#8, 0x05#8, 0x02#8]) = .ok (.cmdActuator 0x05#8 [0x02#8]) ∧
    decode (.entry 0x02#8 0b00011010#8 0x03#8 0xE8#8 0x01#8) =
      .ok (.tlvTypeHum 0x02#8 0b1010#4 0x03#8 0xE8#8 0x01#8) ∧
    decode (.mode 0x05#8 0b00000010#8 0x03#8 0xC8#8) = .ok (.modePwm 0x05#8 0x03#8 0xC8#8)

/-! ## The step -/

/-- A step runs the decoded instruction: when the oldest port item has a code that decodes to a well-formed i, the
step is exec of i with that item taken off the port, and nothing else. That the requests presented stand in a list
of State is the model's choice, log entry 1. The request port is the spec's own decision D2 (R30), the request as
one step its decision D1 (R7). -/
def Obligations.StepRunsTheDecodedInstruction : Prop :=
  ∀ (s : State) (item : PortItem) (rest : List PortItem) (c : Code) (i : Instr),
    s.port = item :: rest → fetch item { s with port := rest } = some c → decode c = .ok i → i.wf = true →
      step s = exec i { s with port := rest }

/-- Between requests the core holds its buffer and everything else (R217). Resting between requests is the spec's
own decision D24 (R217), and the port as a list of State is the model's choice, log entry 1. -/
def Obligations.StepWithoutRequestChangesNothing : Prop :=
  ∀ s : State, s.port = [] → step s = .next s

/-- No step faults, and a step refuses only a request whose operand bytes do not decode; that such a request is a
stop is the model's choice, log entry 5. -/
def Obligations.StepStopsOnlyOnMalformedRequest : Prop :=
  ∀ s : State,
    (∀ f : Fault, step s ≠ .fault f) ∧
      ∀ r : Refusal, step s = .refused r →
        ∃ op operands rest e, s.port = .request op operands :: rest ∧
          decode (.request op operands) = .error e ∧ r = .malformedRequest e

/-- A request whose op is 0x9 to 0xF, whatever operands follow, is refused: no state change, nothing emitted, status
REFUSED, the run marked (R75), and the next request finds the state unchanged (R208, R212). The status number 0xF is
the spec's own decision D17 (R200); the list of requests, the mark as a field of State and the operands passed over
are the model's choices, log entries 1 and 3. The refusal itself is the spec's own decision D19 (R75, R208). -/
def Obligations.ReservedRequestIsRefused : Prop :=
  ∀ (s : State) (op : Nibble) (operands : List Byte) (rest : List PortItem),
    s.port = .request op operands :: rest → 9 ≤ op.toNat →
      step s = .next { s with port := rest, responses := s.responses ++ [.refused op], runRefused := true } ∧
        (Response.refused op).status = 0xF#4

/-- Every step serves one item, the oldest, and gives it exactly one response, after those given before (R30, R50).
The port and its order are the spec's own decision D2 (R30, R50); the lists of items and responses are the model's
choice, log entries 1 and 2. -/
def Obligations.OneResponsePerRequestInOrder : Prop :=
  ∀ (s t : State) (item : PortItem) (rest : List PortItem), s.port = item :: rest → step s = .next t →
    t.port = rest ∧ ∃ r : Response, t.responses = s.responses ++ [r]

/-- Nothing leaves the fault record, the responses or the traces, and a refused run stays refused, whatever the step
does (R23, R37, R208). The sticky fault record is the spec's own decision D18 (R23, R207), the refused mark its
decision D19 (R208); the lists are the model's choice, log entries 2 and 8. -/
def Obligations.RecordsOnlyGrow : Prop :=
  ∀ s t : State, step s = .next t →
    (∀ c ∈ s.faults, c ∈ t.faults) ∧ s.responses <+: t.responses ∧ s.traces <+: t.traces ∧
      (s.runRefused = true → t.runRefused = true)

/-- The core never blocks: from any state whose port holds only requests that decode, as many steps as there are
items serve them all, each with one response (R17, R30). The port is the spec's own decision D2 (R30), and its list
the model's choice, log entry 1. -/
def Obligations.RunServesEveryRequest : Prop :=
  ∀ s : State, (∀ item ∈ s.port, item.decodes) →
    ∃ t : State, Host.Core.run Sys2Proof.core s.port.length s = .next t ∧ t.port = [] ∧
      t.responses.length = s.responses.length + s.port.length ∧ s.responses <+: t.responses

/-! ## The invariant -/

/-- Every step keeps the invariant, from every state that has it, reached or not. The capacity is the spec's own
decision D4 (R21, R143), the fault record its decision D18 (R23, R207), the refused mark its decision D19 (R75,
R208); the record as a list without repeats and the mark as a field are the model's choices, log entries 8 and 3. -/
def Obligations.StepKeepsInv : Prop :=
  ∀ s t : State, s.Inv → step s = .next t → t.Inv

/-- The reset state has the invariant. The buffer and the fault record are empty there by R36 and R231 (the spec's own
decision D5); that the responses are empty and the run is not marked refused at reset is the model's choice, log
entries 2 and 3. -/
def Obligations.ResetHasInv : Prop := State.reset.Inv

/-- Power-on reset: the buffer empty (phase IDLE), the fault record empty (R231). The reset state is the spec's own
decision D5 (R36, R231). -/
def Obligations.ResetLeavesEmptyBuffer : Prop :=
  State.reset.buf = [] ∧ phase State.reset.buf = .idle ∧ State.reset.faults = []

/-! ## RESET and the reserved rows -/

/-- RESET empties the buffer and leaves the fault record and everything else, from every state (R230). The request
is the spec's own decision D6 (R230); that it leaves the fault record is its decision D18 (R23). -/
def Obligations.ResetEmptiesTheBuffer : Prop :=
  ∀ s : State, exec .reset s = .next { s with buf := [], responses := s.responses ++ [.done] }

/-- Each reserved row answers REFUSED with its own selector, marks the run and changes nothing else (R75, R208). The
refusal is the spec's own decision D19 (R75, R208), and the mark as a field of State the model's choice, log entry
3. -/
def Obligations.ReservedRowsAnswerRefused : Prop :=
  ∀ s : State,
    exec .reserved9 s = .next { s with responses := s.responses ++ [.refused 0x9#4], runRefused := true } ∧
      exec .reservedA s = .next { s with responses := s.responses ++ [.refused 0xA#4], runRefused := true } ∧
      exec .reservedB s = .next { s with responses := s.responses ++ [.refused 0xB#4], runRefused := true } ∧
      exec .reservedC s = .next { s with responses := s.responses ++ [.refused 0xC#4], runRefused := true } ∧
      exec .reservedD s = .next { s with responses := s.responses ++ [.refused 0xD#4], runRefused := true } ∧
      exec .reservedE s = .next { s with responses := s.responses ++ [.refused 0xE#4], runRefused := true } ∧
      exec .reservedF s = .next { s with responses := s.responses ++ [.refused 0xF#4], runRefused := true }

/-! ## CRC8 -/

/-- CRC8 answers the checksum and changes nothing else. The checksum is that of the bitwise procedure of R101, its
polynomial 0x31 and its start 0x00 written out, and that of the table form of R102, in which the table is
T[i] = CRC8([i]). -/
def Obligations.Crc8AnswersTheTableForm : Prop :=
  ∀ (data : List Byte) (s : State),
    ∃ c : Byte,
      exec (.crc8 data) s = .next { s with responses := s.responses ++ [.crc c] } ∧
        c.toNat = crcBitwise data ∧ c = crc8Table data

/-- The four laws of R103: empty input, zero prefix, residue, linearity. -/
def Obligations.Crc8Laws : Prop :=
  crc8 [] = 0x00#8 ∧ (∀ d : List Byte, crc8 (0x00#8 :: d) = crc8 d) ∧
    (∀ d : List Byte, crc8 (d ++ [crc8 d]) = 0x00#8) ∧
    ∀ a b : List Byte, a.length = b.length →
      crc8 (List.zipWith (fun x y => x ^^^ y) a b) = crc8 a ^^^ crc8 b

/-- Two sequences of equal length that differ in exactly one byte have different checksums; so a frame with one of
its body or checksum bytes changed is CRC_FAIL (R104). -/
def Obligations.Crc8DetectsEverySingleByteError : Prop :=
  (∀ (front back : List Byte) (x y : Byte), x ≠ y → crc8 (front ++ x :: back) ≠ crc8 (front ++ y :: back)) ∧
    ∀ (body : List Byte) (k : Nat) (v : Byte) (s : State), body.length ≤ Config.maxBody → 2 ≤ k →
      k < (frameOf body).length → (frameOf body)[k]? ≠ some v →
        exec (.frameValidate ((frameOf body).set k v)) s =
          .next { s with responses := s.responses ++ [.validated .crcFail] }

/-- The check value of the ASCII bytes of "123456789" is 0xA2 (R105). -/
def Obligations.Crc8CheckValue : Prop :=
  crc8 [0x31#8, 0x32#8, 0x33#8, 0x34#8, 0x35#8, 0x36#8, 0x37#8, 0x38#8, 0x39#8] = 0xA2#8

/-! ## FRAME_ENCODE and FRAME_VALIDATE -/

/-- FRAME_ENCODE with a payload of at most 253 bytes answers a frame, its bytes as R112 places them, and changes
nothing else (R110, R112). -/
def Obligations.FrameEncodeAnswersTheFrame : Prop :=
  ∀ (command nodeId : Byte) (payload : List Byte) (s : State), payload.length ≤ Config.maxPayload →
    ∃ f : List Byte,
      exec (.frameEncode command nodeId payload) s =
          .next { s with responses := s.responses ++ [.frame f] } ∧
        f.length = payload.length + 5 ∧ (f.getD 1 0x00#8).toNat + 3 = f.length ∧ 2 ≤ (f.getD 1 0x00#8).toNat ∧
        f[0]? = some 0x55#8 ∧ f[2]? = some command ∧ f[3]? = some nodeId ∧
        (f.drop 4).take payload.length = payload ∧ crc8 (f.drop 1) = 0x00#8 ∧
        f.getLast? = some (crc8 ((f.drop 1).dropLast))

/-- FRAME_ENCODE with a payload of more than 253 bytes raises BODY_OVERFLOW with the attempted body length: no
frame, the fault record holds BODY_OVERFLOW and what it held, nothing else changes (R111, R206, R207). What the fault
record does is the spec's own decision D18 (R23, R207), the status number 0x1 its decision D17 (R200); that the record
is a list without repeats is the model's choice, log entry 8. -/
def Obligations.FrameEncodeOverflows : Prop :=
  ∀ (command nodeId : Byte) (payload : List Byte) (s : State), Config.maxPayload < payload.length →
    ∃ faults : List FaultCode,
      exec (.frameEncode command nodeId payload) s =
          .next { s with faults := faults, responses := s.responses ++ [.bodyOverflow (payload.length + 2)] } ∧
        (∀ c : FaultCode, c ∈ faults ↔ c = .bodyOverflow ∨ c ∈ s.faults) ∧
        (s.faults.Nodup → faults.Nodup) ∧ (Response.bodyOverflow (payload.length + 2)).status = 0x1#4

/-- FRAME_VALIDATE always answers, changes nothing else, and answers VALID with a body exactly on the frame of that
body, CRC_FAIL exactly on a frame whose checksum byte is another, SHAPE_FAIL on everything else (R113 to R117). That
a candidate of another shape is answered SHAPE_FAIL is the spec's own decision D8 (R114), the split between
SHAPE_FAIL and CRC_FAIL its decision D35 (R113). -/
def Obligations.FrameValidateJudgesEveryCandidate : Prop :=
  ∀ (c : List Byte) (s : State),
    ∃ r : ValidateResult,
      exec (.frameValidate c) s = .next { s with responses := s.responses ++ [.validated r] } ∧
        (∀ body : List Byte, r = .valid body ↔ body.length ≤ Config.maxBody ∧ c = frameOf body) ∧
        (r = .crcFail ↔ ∃ (body : List Byte) (x : Byte), body.length ≤ Config.maxBody ∧
          c = Config.startByte :: lengthByte body :: (body ++ [x]) ∧ x ≠ crc8 (lengthByte body :: body))

/-- Round trip: FRAME_VALIDATE of a frame that FRAME_ENCODE answers is VALID with the body it spells (R118). -/
def Obligations.ValidateOfEncode : Prop :=
  ∀ (command nodeId : Byte) (payload : List Byte) (s : State), payload.length ≤ Config.maxPayload →
    ∃ f : List Byte,
      exec (.frameEncode command nodeId payload) s =
          .next { s with responses := s.responses ++ [.frame f] } ∧
        exec (.frameValidate f) s =
          .next { s with responses := s.responses ++ [.validated (.valid (command :: nodeId :: payload))] }

/-! ## FEED and FEED_BYTE -/

/-- FEED is one pass as R135 describes it, over the buffer with the chunk appended: such a pass exists, and
whichever pass that is, FEED answers its bodies and their readings, leaves its buffer, records its actions and
changes nothing else (R131 to R137, R140). That FEED answers both the bodies and the readings is the spec's own
decision D30 (R140). -/
def Obligations.FeedIsOnePass : Prop :=
  ∀ (chunk : List Byte) (s : State),
    (∃ actions bodies buf', Passes (s.buf ++ chunk) actions bodies buf') ∧
      ∀ (actions : List PassAction) (bodies : List (List Byte)) (buf' : List Byte),
        Passes (s.buf ++ chunk) actions bodies buf' →
          exec (.feed chunk) s =
            .next { s with
                    buf := buf', traces := s.traces ++ [actions],
                    responses := s.responses ++ [.fed bodies (bodies.flatMap fun b => (dispatch b).readings)] }

/-- FEED_BYTE is FEED of one byte, and always answers (R139). The request is the spec's own decision D3 (R139). -/
def Obligations.FeedByteIsFeedOfOneByte : Prop :=
  ∀ (x : Byte) (s : State), ∃ t : State, exec (.feedByte x) s = .next t ∧ exec (.feed [x]) s = .next t

/-- After every FEED the buffer is stable, from every buffer (R138). -/
def Obligations.FeedLeavesStableBuffer : Prop :=
  ∀ (chunk : List Byte) (s : State), ∃ t : State, exec (.feed chunk) s = .next t ∧ Stable t.buf ∧
    (phase t.buf = .idle ∨ phase t.buf = .shortWait ∨ phase t.buf = .frameWait)

/-- A pass of a buffer of n bytes ends, and takes at most n + 1 iterations: the pass of FEED ends with a wait, every
action before it is none, and there are at most n + 1 of them; and so it is with every pass as R135 describes it,
whatever it does (R137). -/
def Obligations.PassLengthIsBounded : Prop :=
  (∀ (chunk : List Byte) (s : State), ∃ (t : State) (before : List PassAction) (wait : PassAction),
    exec (.feed chunk) s = .next t ∧ t.traces = s.traces ++ [before ++ [wait]] ∧ wait.isWait = true ∧
      (∀ a ∈ before, a.isWait = false) ∧ (before ++ [wait]).length ≤ s.buf.length + chunk.length + 1) ∧
    ∀ (buf buf' : List Byte) (actions : List PassAction) (bodies : List (List Byte)),
      Passes buf actions bodies buf' →
        ∃ (before : List PassAction) (wait : PassAction),
          actions = before ++ [wait] ∧ wait.isWait = true ∧ (∀ a ∈ before, a.isWait = false) ∧
            before.length + buf'.length ≤ buf.length

/-- Split equivalence: FEED(a ‖ b) and FEED(a) then FEED(b) end with the same buffer, and the bodies and readings of
the two, put together, are those of the one (R141). -/
def Obligations.FeedSplitsAnywhere : Prop :=
  ∀ (a b : List Byte) (s : State), ∃ (t u v : State) (bodies₁ bodies₂ : List (List Byte))
    (readings₁ readings₂ : List Reading),
    exec (.feed a) s = .next t ∧ t.responses = s.responses ++ [.fed bodies₁ readings₁] ∧
      exec (.feed b) t = .next u ∧ u.responses = t.responses ++ [.fed bodies₂ readings₂] ∧
      exec (.feed (a ++ b)) s = .next v ∧ u.buf = v.buf ∧
      v.responses = s.responses ++ [.fed (bodies₁ ++ bodies₂) (readings₁ ++ readings₂)]

/-- FEED(a) ends with the buffer that FEED_BYTE of each byte of a in order ends with, and its bodies and readings
are theirs in order (R77, R141). A FEED of no bytes is no FEED_BYTE at all, so for an empty chunk the buffer is one
a pass has left. -/
def Obligations.FeedIsFeedByteOfEachByte : Prop :=
  ∀ (chunk : List Byte) (s : State), chunk ≠ [] ∨ Stable s.buf →
    ∃ (t u : State) (answers : List (List (List Byte) × List Reading)),
      exec (.feed chunk) s = .next t ∧ runAll (chunk.map Instr.feedByte) s = .next u ∧ t.buf = u.buf ∧
        answers.length = chunk.length ∧
        u.responses = s.responses ++ answers.map (fun a => Response.fed a.1 a.2) ∧
        t.responses = s.responses ++ [.fed (answers.flatMap fun a => a.1) (answers.flatMap fun a => a.2)]

/-- A FEED of no bytes on a stable buffer leaves the buffer and emits nothing (R140). What FEED answers is the
spec's own decision D30 (R140). -/
def Obligations.EmptyFeedKeepsStableBuffer : Prop :=
  ∀ s : State, Stable s.buf →
    ∃ t : State, exec (.feed []) s = .next t ∧ t.buf = s.buf ∧
      t.responses = s.responses ++ [.fed [] []] ∧ t.faults = s.faults

/-- From a stable buffer one FEED_BYTE takes at most one action that is not a wait, and emits at most one body and
at most 63 readings (R139, R142). FEED_BYTE is the spec's own decision D3 (R139), its answer of bodies and readings
its decision D30 (R140). -/
def Obligations.FeedByteTakesOneAction : Prop :=
  ∀ (x : Byte) (s : State), Stable s.buf →
    ∃ (t : State) (actions : List PassAction) (bodies : List (List Byte)) (readings : List Reading),
      exec (.feedByte x) s = .next t ∧ t.traces = s.traces ++ [actions] ∧
        t.responses = s.responses ++ [.fed bodies readings] ∧
        (actions.filter fun a => !a.isWait).length ≤ 1 ∧ bodies.length ≤ 1 ∧
        readings.length ≤ Config.maxReadingsPerBody

/-- Capacity: in byte-serial use the buffer has at most 258 bytes after the append and at most 257 between requests
(R143). The capacity is the spec's own decision D4 (R21, R143). -/
def Obligations.FeedByteKeepsWithinCapacity : Prop :=
  ∀ (x : Byte) (s : State), Stable s.buf →
    (s.buf ++ [x]).length ≤ Config.rxBufCap ∧ ∃ t : State, exec (.feedByte x) s = .next t ∧
      t.buf.length ≤ 257

/-- The phase transitions of one FEED_BYTE, row by row (R144). -/
def Obligations.FeedByteTransitions : Prop :=
  ∀ (x : Byte) (s : State), Stable s.buf →
    ∃ (t : State) (actions : List PassAction), exec (.feedByte x) s = .next t ∧
      t.traces = s.traces ++ [actions] ∧
      if s.buf.length ≤ 3 then actions = [.waitShort] ∧ t.buf = s.buf ++ [x] ∧ phase t.buf = .shortWait
      else if s.buf.length = 4 then
        if s.buf[0]? ≠ some 0x55#8 then
          actions = [.resyncDrop (s.buf.getD 0 0x00#8), .waitShort] ∧ t.buf = s.buf.drop 1 ++ [x] ∧
            phase t.buf = .shortWait
        else if 3 ≤ (s.buf.getD 1 0x00#8).toNat then
          actions = [.waitFrame] ∧ t.buf = s.buf ++ [x] ∧ phase t.buf = .frameWait
        else
          ((∃ body, actions = [.accept body, .waitShort]) ∨ actions = [.integrityDrop, .waitShort]) ∧
            t.buf = (s.buf ++ [x]).drop ((s.buf.getD 1 0x00#8).toNat + 3) ∧
            t.buf.length = 2 - (s.buf.getD 1 0x00#8).toNat ∧
            (phase t.buf = .shortWait ∨ phase t.buf = .idle)
      else if s.buf.length + 1 < (s.buf.getD 1 0x00#8).toNat + 3 then
        actions = [.waitFrame] ∧ t.buf = s.buf ++ [x] ∧ phase t.buf = .frameWait
      else
        ((∃ body, actions = [.accept body, .waitShort]) ∨ actions = [.integrityDrop, .waitShort]) ∧
          t.buf = [] ∧ phase t.buf = .idle

/-- A partial frame waits: while the buffer with the chunk is shorter than its length byte plus 3, a sum that does
not wrap, nothing is consumed and nothing is emitted (R133, R234, R235). -/
def Obligations.PartialFrameWaits : Prop :=
  ∀ (chunk : List Byte) (s : State) (L : Byte) (rest : List Byte), s.buf = Config.startByte :: L :: rest →
    Config.minBuf ≤ (s.buf ++ chunk).length → (s.buf ++ chunk).length < L.toNat + 3 →
      exec (.feed chunk) s =
        .next { s with
                buf := s.buf ++ chunk, traces := s.traces ++ [[.waitFrame]],
                responses := s.responses ++ [.fed [] []] }

/-- The short wait comes before every other test: while fewer than 5 bytes are buffered nothing is consumed, be they
noise or a whole frame of 3 or 4 bytes (R131, R236). -/
def Obligations.ShortBufferWaits : Prop :=
  ∀ (chunk : List Byte) (s : State), (s.buf ++ chunk).length < Config.minBuf →
    exec (.feed chunk) s =
      .next { s with
              buf := s.buf ++ chunk, traces := s.traces ++ [[.waitShort]],
              responses := s.responses ++ [.fed [] []] }

/-- A stream of frames of bodies of 2 to 255 bytes, fed in one request to an empty buffer, gives exactly those
bodies and the readings they imply, in order, and leaves the buffer empty (R148). -/
def Obligations.FrameStreamIsRecovered : Prop :=
  ∀ (bodies : List (List Byte)) (s : State), s.buf = [] →
    (∀ b ∈ bodies, 2 ≤ b.length ∧ b.length ≤ Config.maxBody) →
      ∃ t : State, exec (.feed (bodies.flatMap frameOf)) s = .next t ∧ t.buf = [] ∧
        t.responses = s.responses ++ [.fed bodies (bodies.flatMap fun b => (dispatch b).readings)]

/-- One byte of one frame changed, at an offset from 2 on: that frame alone is lost, and every frame before and
after it is recovered (R145). -/
def Obligations.OneCorruptByteLosesOneFrame : Prop :=
  ∀ (before after : List (List Byte)) (hit : List Byte) (k : Nat) (v : Byte) (s : State), s.buf = [] →
    (∀ b ∈ before ++ hit :: after, 2 ≤ b.length ∧ b.length ≤ Config.maxBody) →
    2 ≤ k → k < (frameOf hit).length → (frameOf hit)[k]? ≠ some v →
      ∃ t : State,
        exec (.feed (before.flatMap frameOf ++ ((frameOf hit).set k v ++ after.flatMap frameOf))) s = .next t ∧
          t.buf = [] ∧
          t.responses = s.responses ++
            [.fed (before ++ after) ((before ++ after).flatMap fun b => (dispatch b).readings)]

/-- Attaching mid-stream: bytes that hold no start byte, then a frame, give exactly the frame's body (R132, R233). -/
def Obligations.ResyncFindsTheNextFrame : Prop :=
  ∀ (junk body : List Byte) (s : State), s.buf = [] → Config.startByte ∉ junk → 2 ≤ body.length →
    body.length ≤ Config.maxBody →
      ∃ t : State, exec (.feed (junk ++ frameOf body)) s = .next t ∧ t.buf = [] ∧
        t.responses = s.responses ++ [.fed [body] (dispatch body).readings] ∧
        t.traces = s.traces ++ [junk.map PassAction.resyncDrop ++ [.accept body, .waitShort]]

/-- Every body FEED answers stood in the stream as a whole frame with a matching checksum (R134, R136). -/
def Obligations.AcceptedBodiesAreFramesOfTheStream : Prop :=
  ∀ (chunk : List Byte) (s : State), ∃ (t : State) (bodies : List (List Byte)) (readings : List Reading),
    exec (.feed chunk) s = .next t ∧ t.responses = s.responses ++ [.fed bodies readings] ∧
      ∀ b ∈ bodies, b.length ≤ Config.maxBody ∧ ∃ front back : List Byte,
        s.buf ++ chunk = front ++ (frameOf b ++ back)

/-! ## The two rows of the pass run alone (the model's choice, log entry 6) -/

/-- FRAME_START with the sentinel at the head of at least 5 bytes: it waits while the frame is partial, and else
removes the slice and accepts its body exactly when its checksum matches (R131 to R136). Running one iteration
alone is the model's choice, log entry 6. -/
def Obligations.FrameStartRunsOneIteration : Prop :=
  ∀ (s : State) (L : Byte) (rest : List Byte), s.buf = Config.startByte :: L :: rest →
    Config.minBuf ≤ s.buf.length →
      (s.buf.length < L.toNat + 3 →
        exec .frameStart s =
          .next { s with traces := s.traces ++ [[.waitFrame]], responses := s.responses ++ [.fed [] []] }) ∧
      ∀ (body back : List Byte) (x : Byte), rest = body ++ x :: back → body.length = L.toNat →
        (x = crc8 (L :: body) →
          exec .frameStart s =
            .next { s with
                    buf := back, traces := s.traces ++ [[.accept body]],
                    responses := s.responses ++ [.fed [body] (dispatch body).readings] }) ∧
        (x ≠ crc8 (L :: body) →
          exec .frameStart s =
            .next { s with
                    buf := back, traces := s.traces ++ [[.integrityDrop]],
                    responses := s.responses ++ [.fed [] []] })

/-- RESYNC_DROP with its byte, not the sentinel, at the head of at least 5 bytes drops exactly that byte (R132). Running
one iteration alone is the model's choice, log entry 6. -/
def Obligations.ResyncDropDropsOneByte : Prop :=
  ∀ (s : State) (x : Byte) (rest : List Byte), s.buf = x :: rest → Config.minBuf ≤ s.buf.length →
    x ≠ Config.startByte →
      exec (.resyncDrop x) s =
        .next { s with
                buf := rest, traces := s.traces ++ [[.resyncDrop x]],
                responses := s.responses ++ [.fed [] []] }

/-- Both rows wait, and consume nothing, while fewer than 5 bytes are buffered (R131). Running one iteration
alone is the model's choice, log entry 6. -/
def Obligations.HeadRowsWaitOnShortBuffer : Prop :=
  ∀ (s : State) (x : Byte), s.buf.length < Config.minBuf →
    exec .frameStart s =
        .next { s with traces := s.traces ++ [[.waitShort]], responses := s.responses ++ [.fed [] []] } ∧
      exec (.resyncDrop x) s =
        .next { s with traces := s.traces ++ [[.waitShort]], responses := s.responses ++ [.fed [] []] }

/-- The two rows stop, by the model's choice (log entry 6), exactly where the buffer holds at least 5 bytes and its
head is not the byte the instruction names: FRAME_START where the head is not the sentinel; RESYNC_DROP x where the
head is not x, be it the sentinel or another byte that R132 would drop, and where x is the sentinel. -/
def Obligations.HeadRowsStopWhereNotSelected : Prop :=
  ∀ (s : State) (x : Byte),
    (exec .frameStart s = .fault .rowNotSelected ↔
        Config.minBuf ≤ s.buf.length ∧ s.buf[0]? ≠ some Config.startByte) ∧
      (exec (.resyncDrop x) s = .fault .rowNotSelected ↔
        Config.minBuf ≤ s.buf.length ∧ (s.buf[0]? ≠ some x ∨ x = Config.startByte))

/-! ## DECODE_BODY, the command rows and the entry rows -/

/-- DECODE_BODY classes every body: shorter than 2 bytes, an actuator command, an unknown command: no readings
(R160, R161, R163, R164). That a short body is SHORT_BODY, a no-op, is the spec's own decision D7 (R161), that an
actuator command gives no readings its decision D9 (R163). -/
def Obligations.DecodeBodyWithoutReadings : Prop :=
  ∀ (body : List Byte) (s : State),
    (body.length < 2 →
        exec (.decodeBody body) s =
          .next { s with responses := s.responses ++ [.decoded ⟨.shortBody, [], .notParsed⟩] }) ∧
      (2 ≤ body.length → body[0]? = some 0x20#8 →
        exec (.decodeBody body) s =
          .next { s with responses := s.responses ++ [.decoded ⟨.actuatorCommand, [], .notParsed⟩] }) ∧
      (2 ≤ body.length → body[0]? ≠ some 0x01#8 → body[0]? ≠ some 0x20#8 →
        exec (.decodeBody body) s =
          .next { s with responses := s.responses ++ [.decoded ⟨.unknownCommand, [], .notParsed⟩] })

/-- DECODE_BODY of a sensor report: reading k is the entry at payload bytes 1 + 4k to 4 + 4k, for every declared
entry that fits; NO_COUNT, COMPLETE and TRUNCATED as R165, R167, R171, R172 and R173 say; nothing else changes.
That an empty payload is NO_COUNT is the spec's own decision D10 (R172), that bytes after the last declared entry are
ignored its decision D11 (R171). -/
def Obligations.DecodeBodyReadsEveryEntryThatFits : Prop :=
  ∀ (nodeId : Byte) (p : List Byte) (s : State),
    ∃ (readings : List Reading) (tlv : TlvOutcome),
      exec (.decodeBody (0x01#8 :: nodeId :: p)) s =
          .next { s with responses := s.responses ++ [.decoded ⟨.sensorReport, readings, tlv⟩] } ∧
        readings.length = min (p.getD 0 0x00#8).toNat ((p.length - 1) / 4) ∧
        (∀ k < readings.length, ∃ tn hi lo age : Byte,
          (p.drop (1 + 4 * k)).take 4 = [tn, hi, lo, age] ∧
            readings[k]? = some ⟨tn.extractLsb' 4 4, nodeId, tn.extractLsb' 0 4, hi ++ lo⟩) ∧
        tlv = if p.length = 0 then .noCount
          else if p.length < 1 + 4 * (p.getD 0 0x00#8).toNat then .truncated
          else .complete

/-- A body of at most 255 bytes gives at most 63 readings, and a sensor report of at most 255 bytes that declares 64
or more ends TRUNCATED (R168). -/
def Obligations.ReadingsPerBodyAreBounded : Prop :=
  ∀ (body : List Byte) (s : State), body.length ≤ Config.maxBody →
    ∃ d : Decoded,
      exec (.decodeBody body) s = .next { s with responses := s.responses ++ [.decoded d] } ∧
        d.readings.length ≤ Config.maxReadingsPerBody ∧
        (body[0]? = some 0x01#8 → 64 ≤ (body.getD 2 0x00#8).toNat → d.tlv = .truncated)

/-- The command rows are the dispatcher's cases: each answers what DECODE_BODY answers on a body of the row (R160 to
R164). That a command row is run alone so is the model's choice, log entry 6. The case of short bodies is the spec's
own decision D7 (R161), that of actuator commands its decision D9 (R163). -/
def Obligations.CommandRowsAreDispatchCases : Prop :=
  ∀ (nodeId command : Byte) (payload : List Byte) (s : State),
    (∃ t : State, exec (.cmdSensorReport nodeId payload) s = .next t ∧
        exec (.decodeBody (0x01#8 :: nodeId :: payload)) s = .next t) ∧
      (∃ t : State, exec (.cmdActuator nodeId payload) s = .next t ∧
        exec (.decodeBody (0x20#8 :: nodeId :: payload)) s = .next t) ∧
      (command ≠ 0x01#8 → command ≠ 0x20#8 →
        ∃ t : State, exec (.cmdUnknown command nodeId payload) s = .next t ∧
          exec (.decodeBody (command :: nodeId :: payload)) s = .next t) ∧
      ∀ body : List Byte, body.length < 2 →
        ∃ t : State, exec (.shortBody body) s = .next t ∧ exec (.decodeBody body) s = .next t

/-- The entry rows answer the reading of R166, its type code in the reading, with the type name of R174; the age
byte has no effect; nothing else changes. That an entry row is run alone so is the model's choice, log entry 6. -/
def Obligations.EntryRowsAnswerTheReading : Prop :=
  ∀ (nodeId hi lo age : Byte) (t n : Nibble) (s : State),
    exec (.tlvTypeTemp nodeId n hi lo age) s =
        .next { s with responses := s.responses ++ [.entry .temp ⟨0#4, nodeId, n, hi ++ lo⟩] } ∧
      exec (.tlvTypeHum nodeId n hi lo age) s =
        .next { s with responses := s.responses ++ [.entry .hum ⟨1#4, nodeId, n, hi ++ lo⟩] } ∧
      exec (.tlvTypePress nodeId n hi lo age) s =
        .next { s with responses := s.responses ++ [.entry .press ⟨2#4, nodeId, n, hi ++ lo⟩] } ∧
      (3 ≤ t.toNat →
        exec (.tlvTypeGen nodeId t n hi lo age) s =
          .next { s with responses := s.responses ++ [.entry .gen ⟨t, nodeId, n, hi ++ lo⟩] })

/-- The sensor identifiers of R169 on the readings of R175 and of its own examples: node 2 is written 02, node 100 is
written 100, number 15 is written 15; and the value of every reading is exactly raw tenths, at most 6553.5 (R170).
The forms of the identifier and the value are the model's choice and its reading of `02d` is presumed, log entry 9
(R169 marks that reading as general knowledge; R170 is the spec's own decisions D12 and D13). -/
def Obligations.SensorIdentifiersAndValues : Prop :=
  (Reading.mk 0#4 0x02#8 1#4 235#16).sensorId = ['T', 'E', 'M', 'P', '_', '0', '2', '_', '1'] ∧
    (Reading.mk 0#4 0x64#8 0#4 5#16).sensorId = ['T', 'E', 'M', 'P', '_', '1', '0', '0', '_', '0'] ∧
    (Reading.mk 15#4 0xFF#8 15#4 0xFFFF#16).sensorId = ['G', 'E', 'N', '_', '2', '5', '5', '_', '1', '5'] ∧
    ∀ r : Reading, r.value * 10 = (r.raw.toNat : Rat) ∧ 0 ≤ r.value ∧ r.value * 2 ≤ 13107

/-! ## The builders and the mode rows -/

/-- BUILD_SENSOR_FRAME with at most 63 entries answers a frame that FRAME_VALIDATE finds VALID and whose body
DECODE_BODY reads as SENSOR_REPORT, COMPLETE, with the readings of the entries in order; nothing else changes (R180,
R181). The request and its being the parser's inverse are the spec's own decision D16 (R180, R181). -/
def Obligations.BuildSensorFrameInvertsTheParser : Prop :=
  ∀ (nodeId : Byte) (entries : List SensorEntry) (s : State), entries.length ≤ Config.maxReadingsPerBody →
    ∃ f body : List Byte,
      exec (.buildSensorFrame nodeId entries) s = .next { s with responses := s.responses ++ [.frame f] } ∧
        f.length = 6 + 4 * entries.length ∧
        exec (.frameValidate f) s = .next { s with responses := s.responses ++ [.validated (.valid body)] } ∧
        exec (.decodeBody body) s =
          .next { s with
                  responses := s.responses ++
                    [.decoded ⟨.sensorReport,
                      entries.map (fun e => ⟨e.typeCode, nodeId, e.sensorNumber, e.raw⟩), .complete⟩] }

/-- BUILD_SENSOR_FRAME writes each entry at payload bytes 1 + 4k to 4 + 4k with its age byte as given, after the
count byte (R65, R66, R180). The request is the spec's own decision D16 (R180). -/
def Obligations.BuildSensorFrameBytes : Prop :=
  ∀ (nodeId : Byte) (entries : List SensorEntry) (s : State), entries.length ≤ Config.maxReadingsPerBody →
    ∃ f : List Byte,
      exec (.buildSensorFrame nodeId entries) s = .next { s with responses := s.responses ++ [.frame f] } ∧
        f[0]? = some 0x55#8 ∧ f[1]? = some (BitVec.ofNat 8 (3 + 4 * entries.length)) ∧
        f[2]? = some 0x01#8 ∧ f[3]? = some nodeId ∧ f[4]? = some (BitVec.ofNat 8 entries.length) ∧
        ∀ (k : Nat) (e : SensorEntry), entries[k]? = some e →
          (f.drop (5 + 4 * k)).take 4 =
            [e.typeCode ++ e.sensorNumber, e.raw.extractLsb' 8 8, e.raw.extractLsb' 0 8, e.age]

/-- BUILD_SENSOR_FRAME with more than 63 entries raises BODY_OVERFLOW with 3 + 4n: no frame, the fault record holds
BODY_OVERFLOW and what it held, nothing else changes (R180, R206, R207). The request is the spec's own decision D16
(R180), what the fault record does its decision D18 (R23, R207); that the record is a list without repeats is the
model's choice, log entry 8. -/
def Obligations.BuildSensorFrameOverflows : Prop :=
  ∀ (nodeId : Byte) (entries : List SensorEntry) (s : State), Config.maxReadingsPerBody < entries.length →
    ∃ faults : List FaultCode,
      exec (.buildSensorFrame nodeId entries) s =
          .next { s with
                  faults := faults,
                  responses := s.responses ++ [.bodyOverflow (3 + 4 * entries.length)] } ∧
        (∀ c : FaultCode, c ∈ faults ↔ c = .bodyOverflow ∨ c ∈ s.faults) ∧ (s.faults.Nodup → faults.Nodup)

/-- BUILD_ACTUATOR_FRAME in a mode of R69 answers the 8-byte frame of R182 and changes nothing else: the mode byte,
the actuator id in bits 3 to 0 and zeros above (R184), pwm as given in every mode, the checksum of R63. That the
operands are bytes at the port, the mode its wire byte, is the spec's own decisions D14 (R183) and D15 (R184). -/
def Obligations.BuildActuatorFrameAnswersTheFrame : Prop :=
  ∀ (nodeId actuatorId m pwm : Byte) (s : State), m = 0x00#8 ∨ m = 0x01#8 ∨ m = 0x02#8 →
    ∃ x : Byte,
      exec (.buildActuatorFrame nodeId actuatorId m pwm) s =
          .next { s with
                  responses := s.responses ++
                    [.frame [0x55#8, 0x05#8, 0x20#8, nodeId, m, (actuatorId.extractLsb' 0 4).setWidth 8, pwm, x]] } ∧
        crc8 [0x05#8, 0x20#8, nodeId, m, (actuatorId.extractLsb' 0 4).setWidth 8, pwm, x] = 0x00#8

/-- BUILD_ACTUATOR_FRAME with any other mode byte answers INVALID_MODE with the mode byte: no frame, nothing
recorded, nothing else changes (R183, R204, R206). That the mode is its wire byte at the port is the spec's own
decision D14 (R183), the status number 0x2 its decision D17 (R200). -/
def Obligations.InvalidModeIsAnError : Prop :=
  ∀ (nodeId actuatorId m pwm : Byte) (s : State), m ≠ 0x00#8 → m ≠ 0x01#8 → m ≠ 0x02#8 →
    exec (.buildActuatorFrame nodeId actuatorId m pwm) s =
        .next { s with responses := s.responses ++ [.invalidMode m] } ∧
      (Response.invalidMode m).status = 0x2#4

/-- The mode rows are the builder's cases: each answers what BUILD_ACTUATOR_FRAME answers with the row's wire byte,
MODE_INVALID the INVALID_MODE of its byte (R69, R183). That a mode row is run alone so is the model's choice, log
entry 6. The mode as its wire byte at the port is the spec's own decision D14 (R183). -/
def Obligations.ModeRowsAreBuilderCases : Prop :=
  ∀ (nodeId actuatorId m pwm : Byte) (s : State),
    (∃ t : State, exec (.modeOff nodeId actuatorId pwm) s = .next t ∧
        exec (.buildActuatorFrame nodeId actuatorId 0x00#8 pwm) s = .next t) ∧
      (∃ t : State, exec (.modeOn nodeId actuatorId pwm) s = .next t ∧
        exec (.buildActuatorFrame nodeId actuatorId 0x01#8 pwm) s = .next t) ∧
      (∃ t : State, exec (.modePwm nodeId actuatorId pwm) s = .next t ∧
        exec (.buildActuatorFrame nodeId actuatorId 0x02#8 pwm) s = .next t) ∧
      (m ≠ 0x00#8 → m ≠ 0x01#8 → m ≠ 0x02#8 →
        exec (.modeInvalid nodeId m actuatorId pwm) s =
            .next { s with responses := s.responses ++ [.invalidMode m] } ∧
          exec (.buildActuatorFrame nodeId actuatorId m pwm) s =
            .next { s with responses := s.responses ++ [.invalidMode m] })

/-! ## Frames and isolation over all instructions -/

/-- The frame of every row that is not RESET, FEED_BYTE, FEED or a row of the pass: where it answers a next state,
every byte of the buffer reads as before, and so do the port and the traces; exactly one response is added; the
fault record changes only with BODY_OVERFLOW and the mark of the run only with REFUSED (R24, R49). The separation of
the paths is the spec's own decision D20 (R24), the fault record its decision D18 (R23), the refused mark its
decision D19 (R208); the port, the traces and the rows run alone are the model's choices, log entries 1, 2 and 6. -/
def Obligations.OtherRowsKeepTheBuffer : Prop :=
  ∀ (i : Instr) (s t : State), touchesBuffer i = false → exec i s = .next t →
    t.buf.length = s.buf.length ∧ (∀ k : Nat, t.byteAt k = s.byteAt k) ∧ t.port = s.port ∧
      t.traces = s.traces ∧
      ∃ r : Response, t.responses = s.responses ++ [r] ∧ (r.isOverflow = false → t.faults = s.faults) ∧
        (r.isRefused = false → t.runRefused = s.runRefused)

/-- The frame of the rows that may change the buffer: where one answers a next state, the fault record, the mark of
the run and the port are as before, and exactly one response is added (R23, R49). The fault record is the spec's own
decision D18 (R23), RESET its decision D6 (R230); the mark, the port and the pass rows run alone are the model's
choices, log entries 3, 1 and 6. -/
def Obligations.BufferRowsKeepTheRest : Prop :=
  ∀ (i : Instr) (s t : State), touchesBuffer i = true → exec i s = .next t →
    t.faults = s.faults ∧ t.runRefused = s.runRefused ∧ t.port = s.port ∧
      ∃ r : Response, t.responses = s.responses ++ [r]

/-- Transmit-path and pure requests commute with every request: in either order both answer the same responses, and
the buffer, the traces, the set of recorded faults and the mark of the run end the same (R51). -/
def Obligations.PureRequestsCommute : Prop :=
  ∀ (i j : Instr) (s : State), readsOnlyOperands i → ∀ t : State, exec j s = .next t →
    ∃ (u v w : State) (ri rj : Response),
      exec i s = .next v ∧ exec i t = .next u ∧ exec j v = .next w ∧
        u.responses = s.responses ++ [rj, ri] ∧ w.responses = s.responses ++ [ri, rj] ∧ u.buf = w.buf ∧
        u.traces = w.traces ∧ u.runRefused = w.runRefused ∧ u.port = w.port ∧
        ∀ c : FaultCode, c ∈ u.faults ↔ c ∈ w.faults

/-- A pure request is idempotent: run twice it gives the same response twice, and the second run changes nothing
else (R49). The fault record, in which BODY_OVERFLOW stands once however often it is raised, is the spec's own
decision D18 (R23). -/
def Obligations.PureRequestsAreIdempotent : Prop :=
  ∀ (i : Instr) (s : State), readsOnlyOperands i →
    ∃ (t : State) (r : Response), exec i s = .next t ∧ t.responses = s.responses ++ [r] ∧
      exec i t = .next { t with responses := t.responses ++ [r] }
end

