-- ==== Sys2Proof/Laws/State.lean ====
section
/-! SUPPORT. One lemma for each field and each named update of State, true by unfolding, so that no later proof
unfolds a record update. -/

namespace Sys2Proof.Machine

/-! setBuf -/

@[simp] theorem State.setBuf_buf (s : State) (b : List Byte) : (s.setBuf b).buf = b := rfl
@[simp] theorem State.setBuf_faults (s : State) (b : List Byte) : (s.setBuf b).faults = s.faults := rfl
@[simp] theorem State.setBuf_port (s : State) (b : List Byte) : (s.setBuf b).port = s.port := rfl
@[simp] theorem State.setBuf_responses (s : State) (b : List Byte) : (s.setBuf b).responses = s.responses := rfl
@[simp] theorem State.setBuf_traces (s : State) (b : List Byte) : (s.setBuf b).traces = s.traces := rfl
@[simp] theorem State.setBuf_runRefused (s : State) (b : List Byte) : (s.setBuf b).runRefused = s.runRefused := rfl

/-! respond -/

@[simp] theorem State.respond_buf (s : State) (r : Response) : (s.respond r).buf = s.buf := rfl
@[simp] theorem State.respond_faults (s : State) (r : Response) : (s.respond r).faults = s.faults := rfl
@[simp] theorem State.respond_port (s : State) (r : Response) : (s.respond r).port = s.port := rfl
@[simp] theorem State.respond_responses (s : State) (r : Response) : (s.respond r).responses = s.responses ++ [r] := rfl
@[simp] theorem State.respond_traces (s : State) (r : Response) : (s.respond r).traces = s.traces := rfl
@[simp] theorem State.respond_runRefused (s : State) (r : Response) : (s.respond r).runRefused = s.runRefused := rfl

/-! recordPass -/

@[simp] theorem State.recordPass_buf (s : State) (a : List PassAction) : (s.recordPass a).buf = s.buf := rfl
@[simp] theorem State.recordPass_faults (s : State) (a : List PassAction) : (s.recordPass a).faults = s.faults := rfl
@[simp] theorem State.recordPass_port (s : State) (a : List PassAction) : (s.recordPass a).port = s.port := rfl
@[simp] theorem State.recordPass_responses (s : State) (a : List PassAction) : (s.recordPass a).responses = s.responses := rfl
@[simp] theorem State.recordPass_traces (s : State) (a : List PassAction) : (s.recordPass a).traces = s.traces ++ [a] := rfl
@[simp] theorem State.recordPass_runRefused (s : State) (a : List PassAction) : (s.recordPass a).runRefused = s.runRefused := rfl

/-! recordFault -/

@[simp] theorem State.recordFault_buf (s : State) (c : FaultCode) : (s.recordFault c).buf = s.buf := rfl
@[simp] theorem State.recordFault_faults (s : State) (c : FaultCode) : (s.recordFault c).faults = if c ∈ s.faults then s.faults else s.faults ++ [c] := rfl
@[simp] theorem State.recordFault_port (s : State) (c : FaultCode) : (s.recordFault c).port = s.port := rfl
@[simp] theorem State.recordFault_responses (s : State) (c : FaultCode) : (s.recordFault c).responses = s.responses := rfl
@[simp] theorem State.recordFault_traces (s : State) (c : FaultCode) : (s.recordFault c).traces = s.traces := rfl
@[simp] theorem State.recordFault_runRefused (s : State) (c : FaultCode) : (s.recordFault c).runRefused = s.runRefused := rfl

/-! markRefused -/

@[simp] theorem State.markRefused_buf (s : State) : s.markRefused.buf = s.buf := rfl
@[simp] theorem State.markRefused_faults (s : State) : s.markRefused.faults = s.faults := rfl
@[simp] theorem State.markRefused_port (s : State) : s.markRefused.port = s.port := rfl
@[simp] theorem State.markRefused_responses (s : State) : s.markRefused.responses = s.responses := rfl
@[simp] theorem State.markRefused_traces (s : State) : s.markRefused.traces = s.traces := rfl
@[simp] theorem State.markRefused_runRefused (s : State) : s.markRefused.runRefused = true := rfl

/-! raiseBodyOverflow -/

@[simp] theorem State.raiseBodyOverflow_buf (s : State) (n : Nat) : (s.raiseBodyOverflow n).buf = s.buf := rfl
@[simp] theorem State.raiseBodyOverflow_faults (s : State) (n : Nat) : (s.raiseBodyOverflow n).faults = if FaultCode.bodyOverflow ∈ s.faults then s.faults else s.faults ++ [.bodyOverflow] := rfl
@[simp] theorem State.raiseBodyOverflow_port (s : State) (n : Nat) : (s.raiseBodyOverflow n).port = s.port := rfl
@[simp] theorem State.raiseBodyOverflow_responses (s : State) (n : Nat) : (s.raiseBodyOverflow n).responses = s.responses ++ [.bodyOverflow n] := rfl
@[simp] theorem State.raiseBodyOverflow_traces (s : State) (n : Nat) : (s.raiseBodyOverflow n).traces = s.traces := rfl
@[simp] theorem State.raiseBodyOverflow_runRefused (s : State) (n : Nat) : (s.raiseBodyOverflow n).runRefused = s.runRefused := rfl

/-! raiseInvalidMode -/

@[simp] theorem State.raiseInvalidMode_buf (s : State) (m : Byte) : (s.raiseInvalidMode m).buf = s.buf := rfl
@[simp] theorem State.raiseInvalidMode_faults (s : State) (m : Byte) : (s.raiseInvalidMode m).faults = s.faults := rfl
@[simp] theorem State.raiseInvalidMode_port (s : State) (m : Byte) : (s.raiseInvalidMode m).port = s.port := rfl
@[simp] theorem State.raiseInvalidMode_responses (s : State) (m : Byte) : (s.raiseInvalidMode m).responses = s.responses ++ [.invalidMode m] := rfl
@[simp] theorem State.raiseInvalidMode_traces (s : State) (m : Byte) : (s.raiseInvalidMode m).traces = s.traces := rfl
@[simp] theorem State.raiseInvalidMode_runRefused (s : State) (m : Byte) : (s.raiseInvalidMode m).runRefused = s.runRefused := rfl

/-! refuse -/

@[simp] theorem State.refuse_buf (s : State) (op : Nibble) : (s.refuse op).buf = s.buf := rfl
@[simp] theorem State.refuse_faults (s : State) (op : Nibble) : (s.refuse op).faults = s.faults := rfl
@[simp] theorem State.refuse_port (s : State) (op : Nibble) : (s.refuse op).port = s.port := rfl
@[simp] theorem State.refuse_responses (s : State) (op : Nibble) : (s.refuse op).responses = s.responses ++ [.refused op] := rfl
@[simp] theorem State.refuse_traces (s : State) (op : Nibble) : (s.refuse op).traces = s.traces := rfl
@[simp] theorem State.refuse_runRefused (s : State) (op : Nibble) : (s.refuse op).runRefused = true := rfl

/-! shortWait -/

@[simp] theorem State.shortWait_buf (s : State) : s.shortWait.buf = s.buf := rfl
@[simp] theorem State.shortWait_faults (s : State) : s.shortWait.faults = s.faults := rfl
@[simp] theorem State.shortWait_port (s : State) : s.shortWait.port = s.port := rfl
@[simp] theorem State.shortWait_responses (s : State) : s.shortWait.responses = s.responses ++ [.fed [] []] := rfl
@[simp] theorem State.shortWait_traces (s : State) : s.shortWait.traces = s.traces ++ [[.waitShort]] := rfl
@[simp] theorem State.shortWait_runRefused (s : State) : s.shortWait.runRefused = s.runRefused := rfl

end Sys2Proof.Machine
end

