-- ==== Sys2Proof/Laws/Fields.lean ====
section
/-! SUPPORT. The bit fields of bytes (spec/30_encoding.md R66, R67): packing and unpacking are inverse, and the
big-endian value is the two bytes side by side. -/

namespace Sys2Proof

theorem hiNibble_packNibbles (t s : Nibble) : hiNibble (packNibbles t s) = t := by
  revert t s; decide

theorem loNibble_packNibbles (t s : Nibble) : loNibble (packNibbles t s) = s := by
  revert t s; decide

theorem packNibbles_hiNibble_loNibble (b : Byte) : packNibbles (hiNibble b) (loNibble b) = b := by
  revert b; decide

theorem packNibbles_eq_append (t s : Nibble) : packNibbles t s = t ++ s := by
  revert t s; decide

/-- R67 reads the high byte first. -/
theorem rawOf_eq_append (hi lo : Byte) : rawOf hi lo = hi ++ lo := by
  apply BitVec.eq_of_getLsbD_eq
  intro i hi'
  simp only [rawOf, BitVec.getLsbD_or, BitVec.getLsbD_shiftLeft, BitVec.getLsbD_setWidth, BitVec.getLsbD_append]
  by_cases h : i < 8
  · simp [h, hi']
  · have h8 : i - 8 < 16 := by omega
    simp [h, hi', h8, BitVec.getLsbD_of_ge lo i (by omega)]

theorem rawHi_rawOf (hi lo : Byte) : rawHi (rawOf hi lo) = hi := by
  rw [rawOf_eq_append, rawHi]
  apply BitVec.eq_of_getLsbD_eq
  intro i h
  have hb := BitVec.getLsbD_append (x := hi) (y := lo) (i := 8 + i)
  rw [BitVec.getLsbD_extractLsb']
  simpa [h] using hb

theorem rawLo_rawOf (hi lo : Byte) : rawLo (rawOf hi lo) = lo := by
  rw [rawOf_eq_append, rawLo]
  apply BitVec.eq_of_getLsbD_eq
  intro i h
  have hb := BitVec.getLsbD_append (x := hi) (y := lo) (i := 0 + i)
  rw [BitVec.getLsbD_extractLsb']
  simpa [h] using hb

theorem rawOf_rawHi_rawLo (raw : Half) : rawOf (rawHi raw) (rawLo raw) = raw := by
  rw [rawOf_eq_append]
  apply BitVec.eq_of_getLsbD_eq
  intro i h
  simp only [rawHi, rawLo, BitVec.getLsbD_append, BitVec.getLsbD_extractLsb']
  by_cases h8 : i < 8
  · simp [h8]
  · have : i - 8 < 8 := by omega
    have h' : 8 + (i - 8) = i := by omega
    simp [h8, this, h']

/-- The operand bytes of `entries` and their reading are inverse (log entry 5). -/
theorem entriesOfBytes_flatMap_bytesOfEntry (es : List SensorEntry) :
    entriesOfBytes (es.flatMap bytesOfEntry) = some es := by
  induction es with
  | nil => rfl
  | cons e es ih =>
    simp [bytesOfEntry, entriesOfBytes, ih, hiNibble_packNibbles, loNibble_packNibbles, rawOf_rawHi_rawLo]

theorem flatMap_bytesOfEntry_of_entriesOfBytes (bytes : List Byte) (es : List SensorEntry)
    (h : entriesOfBytes bytes = some es) : es.flatMap bytesOfEntry = bytes := by
  induction bytes using entriesOfBytes.induct generalizing es with
  | case1 => simp [entriesOfBytes] at h; simp [h]
  | case2 tn hi lo age rest es' he ih =>
    simp only [entriesOfBytes, he, Option.some.injEq] at h
    subst h
    simp [bytesOfEntry, packNibbles_hiNibble_loNibble, rawHi_rawOf, rawLo_rawOf, ih es' he]
  | case3 tn hi lo age rest he => simp [entriesOfBytes, he] at h
  | case4 l h1 h2 =>
    unfold entriesOfBytes at h
    split at h
    · exact absurd rfl h1
    · rename_i tn hi lo age rest
      exact absurd rfl (h2 tn hi lo age rest)
    · cases h

end Sys2Proof
end

