-- ==== Sys2Proof/Laws/Crc.lean ====
section
/-! SUPPORT. The CRC-8 register (spec/40_crc8.md): one shift step and one byte step are linear over XOR and
injective in the register, and the fold splits at any point. -/

namespace Sys2Proof.Machine

theorem crcShift_xor (a b : Byte) : crcShift (a ^^^ b) = crcShift a ^^^ crcShift b := by
  have key : ∀ x y z : Byte, (x ^^^ y) ^^^ z = (x ^^^ z) ^^^ y := fun x y z => by
    rw [BitVec.xor_assoc, BitVec.xor_comm y z, ← BitVec.xor_assoc]
  have hs : (a ^^^ b) <<< 1 = a <<< 1 ^^^ b <<< 1 := BitVec.shiftLeft_xor_distrib a b 1
  unfold crcShift
  rw [BitVec.msb_xor, hs]
  cases a.msb <;> cases b.msb <;> simp [BitVec.xor_assoc, key]
  exact BitVec.xor_comm _ _

theorem crcShift_zero : crcShift 0#8 = 0#8 := by decide

theorem crcShift_injective : Function.Injective crcShift := by
  have h : ∀ a : Byte, crcShift a = 0#8 → a = 0#8 := by decide
  intro a b hab
  have : crcShift (a ^^^ b) = 0#8 := by rw [crcShift_xor, hab, BitVec.xor_self]
  exact BitVec.xor_eq_zero_iff.mp (h _ this)

/-- A byte step, with the XOR of the input byte taken apart. -/
theorem crcByte_eq (crc b : Byte) : crcByte crc b = crcByte (crc ^^^ b) 0#8 := by
  simp [crcByte]

theorem crcByte_xor (c d a b : Byte) : crcByte (c ^^^ d) (a ^^^ b) = crcByte c a ^^^ crcByte d b := by
  have h : (c ^^^ d) ^^^ (a ^^^ b) = (c ^^^ a) ^^^ (d ^^^ b) := by
    rw [BitVec.xor_assoc, ← BitVec.xor_assoc d a b, BitVec.xor_comm d a, BitVec.xor_assoc a d b,
      ← BitVec.xor_assoc]
  simp only [crcByte, h, crcShift_xor]

theorem crcByte_zero_zero : crcByte 0#8 0#8 = 0#8 := by decide

theorem crcByte_self (c : Byte) : crcByte c c = 0#8 := by
  rw [crcByte_eq, BitVec.xor_self, crcByte_zero_zero]

/-- The register after a byte determines the register before it, and the byte given the register. -/
theorem crcByte_inj {c d a b : Byte} (h : crcByte c a = crcByte d b) : c ^^^ a = d ^^^ b := by
  unfold crcByte at h
  exact crcShift_injective (crcShift_injective (crcShift_injective (crcShift_injective (crcShift_injective
    (crcShift_injective (crcShift_injective (crcShift_injective h)))))))

theorem foldl_crcByte_injective (d : List Byte) : Function.Injective fun c => d.foldl crcByte c := by
  induction d with
  | nil => exact fun _ _ h => h
  | cons b d ih =>
    intro x y h
    have := crcByte_inj (ih h)
    exact (BitVec.xor_left_inj b).mp this

/-- One shift step on bytes is one step of R101 on numbers. -/
theorem crcShift_toNat : ∀ c : Byte, (crcShift c).toNat = crcStepNat c.toNat := by decide

/-- One input byte on bytes is one input byte of R101 on numbers. -/
theorem crcByte_toNat (c b : Byte) : (crcByte c b).toNat = Nat.repeat crcStepNat 8 (c.toNat ^^^ b.toNat) := by
  simp only [crcByte, crcShift_toNat, Nat.repeat, BitVec.toNat_xor]

theorem crc8_nil : crc8 [] = 0#8 := rfl

theorem crc8_singleton (b : Byte) : crc8 [b] = crcByte 0#8 b := rfl

theorem crc8_append (a b : List Byte) : crc8 (a ++ b) = b.foldl crcByte (crc8 a) := by
  simp [crc8, List.foldl_append]

end Sys2Proof.Machine
end

