-- ==== Sys2Proof/Laws/Codec.lean ====
section
/-! SUPPORT. What the frame codec can do (spec/41_frame_codec.md): the two answers of ENCODE, and the three of
VALIDATE, each by the form of its operand. -/

namespace Sys2Proof.Machine

theorem lengthByte_toNat {body : List Byte} (h : body.length ≤ Config.maxBody) :
    (lengthByte body).toNat = body.length := by
  simp only [lengthByte, BitVec.toNat_ofNat]
  have : body.length < 256 := Nat.lt_succ_of_le h
  omega

theorem lengthByte_eq {L : Byte} {body : List Byte} (h : body.length = L.toNat) : lengthByte body = L := by
  simp [lengthByte, h]

/-- ENCODE of a payload that fits is the frame of the body (R110). -/
theorem encodeFrame_ok {command nodeId : Byte} {payload : List Byte} (h : payload.length ≤ Config.maxPayload) :
    encodeFrame command nodeId payload = .ok (frameOf (command :: nodeId :: payload)) := by
  have h' : payload.length ≤ 253 := h
  have hb : ¬ Config.maxBody < (command :: nodeId :: payload).length := by
    simp only [List.length_cons, Config.maxBody]; omega
  simp only [encodeFrame, hb, if_false, frameOf]
  simp

/-- ENCODE of a payload that does not fit is the attempted body length (R111). -/
theorem encodeFrame_error {command nodeId : Byte} {payload : List Byte} (h : Config.maxPayload < payload.length) :
    encodeFrame command nodeId payload = .error (payload.length + 2) := by
  have h' : 253 < payload.length := h
  have hb : Config.maxBody < (command :: nodeId :: payload).length := by
    simp only [List.length_cons, Config.maxBody]; omega
  simp only [encodeFrame, hb, if_true]
  simp

/-- A candidate of the right shape is its start byte, its length byte, its body and its last byte, and VALIDATE
compares that last byte (R116, R117). -/
theorem validate_of_shape {L x : Byte} {body : List Byte} (h : body.length = L.toNat) :
    validate (Config.startByte :: L :: (body ++ [x])) =
      if x = crc8 (L :: body) then .valid body else .crcFail := by
  have h1 : (Config.startByte :: L :: (body ++ [x])).length - 1 = body.length + 2 := by simp
  have hs1 : slice (Config.startByte :: L :: (body ++ [x])) 1 (body.length + 2) = L :: body := by
    simp [slice]
  have hs2 : slice (Config.startByte :: L :: (body ++ [x])) 2 (body.length + 2) = body := by
    simp [slice]
  unfold validate
  rw [h1, hs1, hs2]
  have hl : (Config.startByte :: L :: (body ++ [x])).getLast? = some x := by
    rw [List.getLast?_cons_cons, List.getLast?_cons]
    simp
  rw [hl]
  have hlen : ¬ (Config.startByte :: L :: (body ++ [x])).length < 3 := by simp
  have ha : ¬ (Config.startByte :: L :: (body ++ [x])).length ≠ announcedLength (Config.startByte :: L :: (body ++ [x])) := by
    simp [announcedLength, lengthField, h, Config.frameOverhead]
  rw [if_neg hlen, if_neg (by simp), if_neg ha]
  by_cases hx : x = crc8 (L :: body) <;> simp [hx]

theorem validate_frameOf {body : List Byte} (h : body.length ≤ Config.maxBody) :
    validate (frameOf body) = .valid body := by
  have := validate_of_shape (x := crc8 (lengthByte body :: body)) (lengthByte_toNat h).symm
  simpa [frameOf] using this

/-- Everything else is SHAPE_FAIL (R114, R115). -/
theorem validate_cases (c : List Byte) :
    validate c = .shapeFail ∨ ∃ (L x : Byte) (body : List Byte), body.length = L.toNat ∧
      c = Config.startByte :: L :: (body ++ [x]) := by
  by_cases h3 : c.length < 3
  · left; simp [validate, h3]
  by_cases hs : c.head? = some Config.startByte
  · by_cases ha : c.length = announcedLength c
    · right
      match c, h3, hs, ha with
      | s :: L :: rest, h3, hs, ha =>
        have hne : rest ≠ [] := by rintro rfl; simp at h3
        refine ⟨L, rest.getLast hne, rest.dropLast, ?_, ?_⟩
        · simp only [announcedLength, lengthField, Config.frameOverhead, List.length_cons, List.getD_cons_succ,
            List.getD_cons_zero] at ha
          rw [List.length_dropLast]
          omega
        · simp at hs
          rw [hs, List.dropLast_concat_getLast hne]
      | [_], h3, _, _ => simp at h3
      | [], h3, _, _ => simp at h3
    · left; simp [validate, h3, hs, ha]
  · left; simp [validate, h3, hs]

theorem frameOf_length (body : List Byte) : (frameOf body).length = body.length + 3 := by
  simp [frameOf]

end Sys2Proof.Machine
end

