-- ==== Sys2Proof/Laws/Reassembler.lean ====
section
/-! SUPPORT. What one iteration of the pass can do (spec/42_reassembler.md R135), by the form of the buffer. -/

namespace Sys2Proof.Machine

theorem passStep_short {buf : List Byte} (h : buf.length < Config.minBuf) : passStep buf = .stop .waitShort := by
  simp [passStep, h]

theorem passStep_resync {b : Byte} {rest : List Byte} (long : Config.minBuf ≤ (b :: rest).length)
    (junk : b ≠ Config.startByte) : passStep (b :: rest) = .go (.resyncDrop b) rest none := by
  have h : ¬ (b :: rest).length < Config.minBuf := Nat.not_lt.mpr long
  rw [passStep, if_neg h]
  simp [junk, resyncStep, consume]

theorem frameStep_wait {L : Byte} {rest : List Byte} (part : rest.length + 2 < L.toNat + Config.frameOverhead) :
    frameStep (Config.startByte :: L :: rest) = .stop .waitFrame := by
  have : (Config.startByte :: L :: rest).length < announcedLength (Config.startByte :: L :: rest) := by
    simpa [announcedLength, lengthField] using part
  rw [frameStep, if_pos this]

theorem frameStep_slice {L x : Byte} {body back : List Byte} (size : body.length = L.toNat) :
    frameStep (Config.startByte :: L :: (body ++ x :: back)) =
      if x = crc8 (L :: body) then .go (.accept body) back (some body) else .go .integrityDrop back none := by
  have ha : announcedLength (Config.startByte :: L :: (body ++ x :: back)) = body.length + 3 := by
    simp [announcedLength, lengthField, size, Config.frameOverhead]
  have hl : ¬ (Config.startByte :: L :: (body ++ x :: back)).length < body.length + 3 := by
    simp only [List.length_cons, List.length_append]; omega
  have hm : memRead (Config.startByte :: L :: (body ++ x :: back)) 0 (body.length + 3) =
      Config.startByte :: L :: (body ++ [x]) := by
    simp [memRead, slice, List.take_append]
  have hc : consume (body.length + 3) (Config.startByte :: L :: (body ++ x :: back)) = back := by
    simp [consume, List.drop_append]
  rw [frameStep, ha, if_neg hl, hm, hc, judge, validate_of_shape size]
  by_cases hx : x = crc8 (L :: body) <;> simp [hx]

theorem passStep_frame {L : Byte} {rest : List Byte} (long : Config.minBuf ≤ rest.length + 2) :
    passStep (Config.startByte :: L :: rest) = frameStep (Config.startByte :: L :: rest) := by
  have h : ¬ (Config.startByte :: L :: rest).length < Config.minBuf := by
    simpa using long
  rw [passStep, if_neg h]
  simp

/-- Every buffer is of one of the five forms R135 tells apart, and one iteration does what it says of that form. -/
theorem passStep_cases (buf : List Byte) :
    (buf.length < Config.minBuf ∧ passStep buf = .stop .waitShort) ∨
    (∃ b rest, buf = b :: rest ∧ Config.minBuf ≤ buf.length ∧ b ≠ Config.startByte ∧
      passStep buf = .go (.resyncDrop b) rest none) ∨
    (∃ L rest, buf = Config.startByte :: L :: rest ∧ Config.minBuf ≤ buf.length ∧
      rest.length + 2 < L.toNat + Config.frameOverhead ∧ passStep buf = .stop .waitFrame) ∨
    (∃ L x body back, buf = Config.startByte :: L :: (body ++ x :: back) ∧ Config.minBuf ≤ buf.length ∧
      body.length = L.toNat ∧ passStep buf =
        if x = crc8 (L :: body) then .go (.accept body) back (some body) else .go .integrityDrop back none) := by
  by_cases hs : buf.length < Config.minBuf
  · exact .inl ⟨hs, passStep_short hs⟩
  have hl : Config.minBuf ≤ buf.length := Nat.not_lt.mp hs
  match buf, hl with
  | b :: L :: rest, hl =>
    by_cases hb : b = Config.startByte
    · subst hb
      have hl' : Config.minBuf ≤ rest.length + 2 := by simpa using hl
      by_cases hw : rest.length + 2 < L.toNat + Config.frameOverhead
      · exact .inr (.inr (.inl ⟨L, rest, rfl, hl, hw, by rw [passStep_frame hl', frameStep_wait hw]⟩))
      · have hw' : L.toNat + 1 ≤ rest.length := by
          simp only [Config.frameOverhead] at hw; omega
        obtain ⟨x, back, hx⟩ : ∃ x back, rest.drop L.toNat = x :: back := by
          match h : rest.drop L.toNat with
          | [] => have := List.drop_eq_nil_iff.mp h; omega
          | x :: back => exact ⟨x, back, rfl⟩
        have hr : rest = rest.take L.toNat ++ x :: back := by rw [← hx, List.take_append_drop]
        have hz : (rest.take L.toNat).length = L.toNat := by simp; omega
        refine .inr (.inr (.inr ⟨L, x, rest.take L.toNat, back, by rw [← hr], hl, hz, ?_⟩))
        rw [passStep_frame hl']
        conv_lhs => rw [hr]
        exact frameStep_slice hz
    · exact .inr (.inl ⟨b, L :: rest, rfl, hl, hb, passStep_resync hl hb⟩)
  | [_], hl => simp [Config.minBuf] at hl

/-- An iteration that does not end the pass leaves a shorter buffer (R137). -/
theorem passStep_go_shorter {buf rest : List Byte} {a : PassAction} {accepted : Option (List Byte)}
    (h : passStep buf = .go a rest accepted) : rest.length < buf.length := by
  obtain ⟨-, h'⟩ | ⟨b, r, rfl, -, -, h'⟩ | ⟨L, r, rfl, -, -, h'⟩ | ⟨L, x, body, back, rfl, -, -, h'⟩ :=
    passStep_cases buf
  · simp [h'] at h
  · simp [h'] at h; simp [← h.2.1]
  · simp [h'] at h
  · rw [h'] at h
    split at h <;> · simp at h; simp only [← h.2.1, List.length_cons, List.length_append]; omega

/-- The bound on the iterations does not show in the result once it exceeds the length of the buffer. -/
theorem passLoop_enough (n m : Nat) (buf : List Byte) (hn : buf.length < n) (hm : buf.length < m) :
    passLoop n buf = passLoop m buf := by
  induction n generalizing m buf with
  | zero => omega
  | succ n ih =>
    cases m with
    | zero => omega
    | succ m =>
      simp only [passLoop]
      split
      · rfl
      · rename_i a rest acc h
        have := passStep_go_shorter h
        rw [ih m rest (by omega) (by omega)]

/-- One turn of the pass that ends it. -/
theorem pass_stop {buf : List Byte} {a : PassAction} (h : passStep buf = .stop a) :
    pass buf = { buf := buf, bodies := [], trace := [a] } := by
  simp [pass, passLoop, h]

/-- One turn of the pass that does not end it. -/
theorem pass_go {buf rest : List Byte} {a : PassAction} {accepted : Option (List Byte)}
    (h : passStep buf = .go a rest accepted) :
    pass buf =
      { buf := (pass rest).buf, bodies := accepted.toList ++ (pass rest).bodies, trace := a :: (pass rest).trace } := by
  have hl := passStep_go_shorter h
  have he := passLoop_enough buf.length (rest.length + 1) rest hl (Nat.lt_succ_self _)
  show passLoop (buf.length + 1) buf = _
  rw [passLoop, h]
  simp only [he, pass]

end Sys2Proof.Machine
end

