-- ==== Sys2Proof/Laws/Step.lean ====
section
/-! SUPPORT. What a step and an instruction can do, once: the inversion of step, and the one response every
instruction gives. -/

namespace Sys2Proof.Machine

/-- A code the decoder answers is well formed. -/
theorem decode_wf {c : Code} {i : Instr} (h : decode c = .ok i) : i.wf = true := by
  cases c with
  | request op xs =>
    simp only [decode, decodeRequest] at h
    split at h <;> (try split at h) <;> (try split at h) <;> simp at h <;> subst h <;> rfl
  | head b => simp only [decode, decodeHead] at h; split at h <;> simp at h <;> subst h <;> simp_all [Instr.wf]
  | body bs =>
    simp only [decode, decodeCommand] at h
    split at h
    · split at h
      · simp at h; subst h; rfl
      · split at h <;> simp at h <;> subst h <;> simp_all [Instr.wf, isKnownCommand]
    · simp at h; subst h
      rename_i hb
      match bs, hb with
      | [], _ => rfl
      | [_], _ => rfl
      | a :: b :: r, hb => exact absurd rfl (hb a b r)
  | entry n tn hi lo age =>
    simp only [decode, decodeEntry] at h
    split at h
    · simp at h; subst h; rfl
    · split at h
      · simp at h; subst h; rfl
      · split at h <;> simp at h <;> subst h <;> simp_all [Instr.wf, isNamedType]
  | mode n m a p =>
    simp only [decode, decodeMode] at h
    split at h
    · simp at h; subst h; rfl
    · split at h
      · simp at h; subst h; rfl
      · split at h <;> simp at h <;> subst h <;> simp_all [Instr.wf, isMode]

/-- Everything a step can do: nothing to serve, a head probe that waits, a decoded instruction run, or a request
that does not decode. -/
theorem step_cases (s : State) :
    (s.port = [] ∧ step s = .next s) ∨
    (∃ rest, s.port = .probeHead :: rest ∧ s.buf.length < Config.minBuf ∧
      step s = .next ({ s with port := rest } : State).shortWait) ∨
    (∃ item rest c i, s.port = item :: rest ∧ fetch item { s with port := rest } = some c ∧ decode c = .ok i ∧
      i.wf = true ∧ step s = exec i { s with port := rest }) ∨
    (∃ op operands rest e, s.port = .request op operands :: rest ∧ decode (.request op operands) = .error e ∧
      step s = .refused (.malformedRequest e)) := by
  unfold step
  match hp : s.port with
  | [] => exact .inl ⟨rfl, rfl⟩
  | item :: rest =>
    right
    simp only
    match hf : fetch item { s with port := rest } with
    | none =>
      left
      cases item with
      | probeHead =>
        refine ⟨rest, rfl, ?_, rfl⟩
        by_contra hl
        rw [fetch, if_neg hl] at hf
        rw [Option.map_eq_none_iff, List.head?_eq_none_iff] at hf
        exact hl (by rw [hf]; decide)
      | request _ _ => simp [fetch] at hf
      | probeBody _ => simp [fetch] at hf
      | probeEntry _ _ _ _ _ => simp [fetch] at hf
      | probeMode _ _ _ _ => simp [fetch] at hf
    | some c =>
      right
      match hd : decode c with
      | .ok i => exact .inl ⟨item, rest, c, i, rfl, hf, hd, decode_wf hd, by simp only [hd]⟩
      | .error e =>
        right
        have hc : ∃ op xs, c = .request op xs := by
          cases c <;> simp [decode] at hd
          exact ⟨_, _, rfl⟩
        obtain ⟨op, xs, rfl⟩ := hc
        cases item <;> simp [fetch] at hf
        · obtain ⟨rfl, rfl⟩ := hf
          exact ⟨_, _, rest, e, rfl, hd, by simp only [hd]⟩

/-- The response of an instruction that does not read the buffer, as a function of its operands alone. -/
theorem answerFrame_cases (s : State) (r : Except Nat (List Byte)) :
    (∃ f, r = .ok f ∧ s.answerFrame r = s.respond (.frame f)) ∨
    (∃ n, r = .error n ∧ s.answerFrame r = s.raiseBodyOverflow n) := by
  cases r with
  | ok f => exact .inl ⟨f, rfl, rfl⟩
  | error n => exact .inr ⟨n, rfl, rfl⟩

end Sys2Proof.Machine
end

