-- ==== Sys2Proof/Laws/Exec.lean ====
section
/-! SUPPORT. What an instruction does to the state, in the named operations alone: the rows that leave the buffer
answer once, raise BODY_OVERFLOW or refuse, whatever the state; the others write the buffer, record one pass and
answer once. -/

namespace Sys2Proof.Machine

/-- A response that is neither the hardware's fault nor a refusal. -/
abbrev Response.Plain (r : Response) : Prop := r.isOverflow = false ∧ r.isRefused = false

theorem answerFrame_uniform (r : Except Nat (List Byte)) :
    (∃ a : Response, a.Plain ∧ ∀ s : State, s.answerFrame r = s.respond a) ∨
      ∃ n, ∀ s : State, s.answerFrame r = s.raiseBodyOverflow n := by
  cases r with
  | ok f => exact .inl ⟨.frame f, ⟨rfl, rfl⟩, fun _ => rfl⟩
  | error n => exact .inr ⟨n, fun _ => rfl⟩

/-- A row that leaves the buffer does one of three things, the same from every state (R24, R49). -/
theorem exec_of_not_touchesBuffer (i : Instr) (h : touchesBuffer i = false) :
    (∃ r : Response, r.Plain ∧ ∀ s, exec i s = .next (s.respond r)) ∨
      (∃ n, ∀ s, exec i s = .next (s.raiseBodyOverflow n)) ∨ (∃ op, ∀ s, exec i s = .next (s.refuse op)) := by
  have frame : ∀ e : Except Nat (List Byte), (∀ s, exec i s = .next (s.answerFrame e)) →
      (∃ r : Response, r.Plain ∧ ∀ s, exec i s = .next (s.respond r)) ∨
      (∃ n, ∀ s, exec i s = .next (s.raiseBodyOverflow n)) ∨
      (∃ op, ∀ s, exec i s = .next (s.refuse op)) := fun e he => by
    obtain ⟨a, ha, h'⟩ | ⟨n, h'⟩ := answerFrame_uniform e
    · exact .inl ⟨a, ha, fun s => by rw [he, h']⟩
    · exact .inr (.inl ⟨n, fun s => by rw [he, h']⟩)
  cases i with
  | reset | feedByte | feed | frameStart | resyncDrop => cases h
  | crc8 | frameValidate | decodeBody | cmdSensorReport | cmdActuator | cmdUnknown | shortBody | tlvTypeTemp
  | tlvTypeHum | tlvTypePress | tlvTypeGen | modeInvalid => exact .inl ⟨_, ⟨rfl, rfl⟩, fun _ => rfl⟩
  | frameEncode c n p => exact frame (encodeFrame c n p) fun _ => rfl
  | buildSensorFrame n es => exact frame (sensorFrame n es) fun _ => rfl
  | buildActuatorFrame n a m p =>
    by_cases hm : m = Config.modeOff ∨ m = Config.modeOn ∨ m = Config.modePwm
    · exact frame (actuatorFrame m n a p) fun s => if_pos hm
    · exact .inl ⟨.invalidMode m, ⟨rfl, rfl⟩, fun s => if_neg hm⟩
  | modeOff n a p => exact frame (actuatorFrame Config.modeOff n a p) fun _ => rfl
  | modeOn n a p => exact frame (actuatorFrame Config.modeOn n a p) fun _ => rfl
  | modePwm n a p => exact frame (actuatorFrame Config.modePwm n a p) fun _ => rfl
  | reserved9 | reservedA | reservedB | reservedC | reservedD | reservedE | reservedF =>
    exact .inr (.inr ⟨_, fun _ => rfl⟩)

theorem runPassStep_form (s : State) (p : PassStep) :
    ∃ buf acts bodies readings, s.runPassStep p =
      ((s.setBuf buf).recordPass acts).respond (.fed bodies readings) := by
  cases p with
  | stop a => exact ⟨s.buf, [a], [], [], rfl⟩
  | go a rest acc => exact ⟨rest, [a], _, _, rfl⟩

/-- A row that may change the buffer changes the buffer, the traces and the responses only (R23, R49). -/
theorem exec_of_touchesBuffer {i : Instr} {s t : State} (h : touchesBuffer i = true) (he : exec i s = .next t) :
    ∃ (buf : List Byte) (traces : List (List PassAction)) (r : Response), r.Plain ∧ s.traces <+: traces ∧
      t = { s with buf := buf, traces := traces, responses := s.responses ++ [r] } := by
  have pass1 : ∀ p : PassStep, t = s.runPassStep p →
      ∃ (buf : List Byte) (traces : List (List PassAction)) (r : Response), r.Plain ∧ s.traces <+: traces ∧
      t = { s with buf := buf, traces := traces, responses := s.responses ++ [r] } := fun p hp => by
    obtain ⟨buf, acts, bodies, readings, h'⟩ := runPassStep_form s p
    exact ⟨buf, s.traces ++ [acts], .fed bodies readings, ⟨rfl, rfl⟩, List.prefix_append _ _, by rw [hp, h']; rfl⟩
  cases i with
  | reset => cases he; exact ⟨[], s.traces, .done, ⟨rfl, rfl⟩, List.prefix_rfl, rfl⟩
  | feedByte x => cases he; exact ⟨_, _, .fed _ _, ⟨rfl, rfl⟩, List.prefix_append _ _, rfl⟩
  | feed x => cases he; exact ⟨_, _, .fed _ _, ⟨rfl, rfl⟩, List.prefix_append _ _, rfl⟩
  | frameStart =>
    simp only [exec, execFrameStart] at he
    split at he
    · cases he; exact pass1 _ rfl
    · split at he
      · cases he; exact pass1 _ rfl
      · cases he
  | resyncDrop b =>
    simp only [exec, execResyncDrop] at he
    split at he
    · cases he; exact pass1 _ rfl
    · split at he
      · cases he; exact pass1 _ rfl
      · cases he
  | crc8 | frameValidate | decodeBody | cmdSensorReport | cmdActuator | cmdUnknown | shortBody | tlvTypeTemp
  | tlvTypeHum | tlvTypePress | tlvTypeGen | modeInvalid | frameEncode | buildSensorFrame | buildActuatorFrame
  | modeOff | modeOn | modePwm | reserved9 | reservedA | reservedB | reservedC | reservedD | reservedE
  | reservedF => cases h

end Sys2Proof.Machine
end

