-- ==== Sys2Proof/Laws/PerInstr.lean ====
section
/-! SUPPORT. One statement for every instruction: the code the encoder writes for a well-formed instruction lies in
the instruction's own row of spec/opcode_table.json. -/

namespace Sys2Proof.Laws.RowMatch

/-- The code of a well-formed instruction is one its row admits. -/
def Statement (i : Instr) : Prop := i.wf = true → i.row.admits (encode i) = true

/-- The nibble pair of an entry row, for every sensor number. -/
theorem named_type_field (n : Nibble) :
    packNibbles Config.typeTemp n &&& 0xF0#8 = 0x00#8 ∧ packNibbles Config.typeHum n &&& 0xF0#8 = 0x10#8 ∧
      packNibbles Config.typePress n &&& 0xF0#8 = 0x20#8 := by
  revert n; decide

theorem gen_type_field (t n : Nibble) (h : isNamedType t = false) :
    0x30 ≤ (packNibbles t n).toNat ∧ (packNibbles t n).toNat ≤ 0xFF := by
  revert t n; decide

theorem invalid_mode_field (m : Byte) (h : isMode m = false) : 0x03 ≤ m.toNat ∧ m.toNat ≤ 0xFF := by
  revert m; decide

theorem reset : Statement .reset := fun _ => rfl

theorem feedByte (x : Byte) : Statement (.feedByte x) := fun _ => rfl

theorem crc8 (data : List Byte) : Statement (.crc8 data) := fun _ => rfl

theorem frameEncode (command nodeId : Byte) (payload : List Byte) :
    Statement (.frameEncode command nodeId payload) := fun _ => rfl

theorem frameValidate (candidate : List Byte) : Statement (.frameValidate candidate) := fun _ => rfl

theorem decodeBody (body : List Byte) : Statement (.decodeBody body) := fun _ => rfl

theorem buildSensorFrame (nodeId : Byte) (entries : List SensorEntry) :
    Statement (.buildSensorFrame nodeId entries) := fun _ => rfl

theorem buildActuatorFrame (nodeId actuatorId modeSel pwmValue : Byte) :
    Statement (.buildActuatorFrame nodeId actuatorId modeSel pwmValue) := fun _ => rfl

theorem feed (chunk : List Byte) : Statement (.feed chunk) := fun _ => rfl

theorem reserved9 : Statement .reserved9 := fun _ => rfl

theorem reservedA : Statement .reservedA := fun _ => rfl

theorem reservedB : Statement .reservedB := fun _ => rfl

theorem reservedC : Statement .reservedC := fun _ => rfl

theorem reservedD : Statement .reservedD := fun _ => rfl

theorem reservedE : Statement .reservedE := fun _ => rfl

theorem reservedF : Statement .reservedF := fun _ => rfl

theorem frameStart : Statement .frameStart := fun _ => rfl

theorem resyncDrop (head : Byte) : Statement (.resyncDrop head) := by
  intro h
  simpa [Instr.row, TableRow.admits, RowPattern.admitsField, encode, Instr.wf, Config.startByte] using h

theorem cmdSensorReport (nodeId : Byte) (payload : List Byte) :
    Statement (.cmdSensorReport nodeId payload) := fun _ => rfl

theorem cmdActuator (nodeId : Byte) (payload : List Byte) : Statement (.cmdActuator nodeId payload) := fun _ => rfl

theorem cmdUnknown (command nodeId : Byte) (payload : List Byte) :
    Statement (.cmdUnknown command nodeId payload) := by
  intro h
  simpa [Instr.row, TableRow.admits, RowPattern.admitsField, encode, Instr.wf, isKnownCommand,
    Config.cmdSensorReport, Config.cmdActuator] using h

theorem shortBody (body : List Byte) : Statement (.shortBody body) := by
  intro h
  match body, h with
  | [], _ => rfl
  | [_], _ => rfl

theorem tlvTypeTemp (nodeId : Byte) (sensorNumber : Nibble) (valueHi valueLo age : Byte) :
    Statement (.tlvTypeTemp nodeId sensorNumber valueHi valueLo age) := by
  intro _
  simp [Instr.row, TableRow.admits, RowPattern.admitsField, encode, (named_type_field sensorNumber).1]

theorem tlvTypeHum (nodeId : Byte) (sensorNumber : Nibble) (valueHi valueLo age : Byte) :
    Statement (.tlvTypeHum nodeId sensorNumber valueHi valueLo age) := by
  intro _
  simp [Instr.row, TableRow.admits, RowPattern.admitsField, encode, (named_type_field sensorNumber).2.1]

theorem tlvTypePress (nodeId : Byte) (sensorNumber : Nibble) (valueHi valueLo age : Byte) :
    Statement (.tlvTypePress nodeId sensorNumber valueHi valueLo age) := by
  intro _
  simp [Instr.row, TableRow.admits, RowPattern.admitsField, encode, (named_type_field sensorNumber).2.2]

theorem tlvTypeGen (nodeId : Byte) (typeCode sensorNumber : Nibble) (valueHi valueLo age : Byte) :
    Statement (.tlvTypeGen nodeId typeCode sensorNumber valueHi valueLo age) := by
  intro h
  have hf := gen_type_field typeCode sensorNumber (by simpa [Instr.wf] using h)
  simp [Instr.row, TableRow.admits, RowPattern.admitsField, encode, hf.1, hf.2]

theorem modeOff (nodeId actuatorId pwmValue : Byte) : Statement (.modeOff nodeId actuatorId pwmValue) := fun _ => rfl

theorem modeOn (nodeId actuatorId pwmValue : Byte) : Statement (.modeOn nodeId actuatorId pwmValue) := fun _ => rfl

theorem modePwm (nodeId actuatorId pwmValue : Byte) : Statement (.modePwm nodeId actuatorId pwmValue) := fun _ => rfl

theorem modeInvalid (nodeId modeSel actuatorId pwmValue : Byte) :
    Statement (.modeInvalid nodeId modeSel actuatorId pwmValue) := by
  intro h
  have hf := invalid_mode_field modeSel (by simpa [Instr.wf] using h)
  simp [Instr.row, TableRow.admits, RowPattern.admitsField, encode, hf.1, hf.2]

end Sys2Proof.Laws.RowMatch
end

