-- ==== Sys2Proof/Tests/Slice0.lean ====
section
/-! SUPPORT. The model's own tests. Expected results are those of spec/95_test_vectors.md (the vector's number in the
comment) or worked by hand from the rule named. -/

-- One test at a time: the kernel evaluations below each hold a thread, and there are many.
set_option Elab.async false

namespace Sys2Proof.Tests

open Sys2Proof.Machine

/-- A state with a buffer, reset otherwise. -/
def st (buf : List Byte) : State := { State.reset with buf := buf }

/-- The state after an instruction that answers one. -/
def after (r : Result) : Option State :=
  match r with
  | .next s => some s
  | .fault _ => none
  | .refused _ => none

/-- The buffer and the last response after an instruction run on a buffer. -/
def run (i : Instr) (buf : List Byte) : Option (List Byte × Option Response) :=
  (after (exec i (st buf))).map fun s => (s.buf, s.responses.getLast?)

/-- The last trace after an instruction run on a buffer. -/
def traceOf (i : Instr) (buf : List Byte) : Option (Option (List PassAction)) :=
  (after (exec i (st buf))).map fun s => s.traces.getLast?

/-- The fault record after an instruction. -/
def faultsOf (i : Instr) : Option (List FaultCode) := (after (exec i State.reset)).map fun s => s.faults

/-- The sensor example S of spec/95_test_vectors.md. -/
def frameS : List Byte := [0x55#8, 0x07#8, 0x01#8, 0x02#8, 0x01#8, 0x01#8, 0x00#8, 0xEB#8, 0x00#8, 0xAD#8]

/-- The body of S. -/
def bodyS : List Byte := [0x01#8, 0x02#8, 0x01#8, 0x01#8, 0x00#8, 0xEB#8, 0x00#8]

/-- The actuator example A of spec/95_test_vectors.md. -/
def frameA : List Byte := [0x55#8, 0x05#8, 0x20#8, 0x05#8, 0x02#8, 0x03#8, 0xC8#8, 0x08#8]

/-- The reading TEMP_02_1 raw=235. -/
def readingS : Reading := ⟨0#4, 0x02#8, 1#4, 235#16⟩

/-! ## Well-formedness: each check refuses an ill-formed term -/

theorem test_wf_resync_not_sentinel : (Instr.resyncDrop 0x55#8).wf = false := by decide
theorem test_wf_unknown_not_sensor : (Instr.cmdUnknown 0x01#8 0x02#8 []).wf = false := by decide
theorem test_wf_unknown_not_actuator : (Instr.cmdUnknown 0x20#8 0x02#8 []).wf = false := by decide
theorem test_wf_short_body_length : (Instr.shortBody [0x01#8, 0x02#8]).wf = false := by decide
theorem test_wf_gen_type_code : (Instr.tlvTypeGen 0x02#8 2#4 1#4 0x00#8 0x00#8 0x00#8).wf = false := by decide
theorem test_wf_invalid_mode : (Instr.modeInvalid 0x05#8 0x02#8 0x03#8 0x00#8).wf = false := by decide
theorem test_wf_accepts_the_boundary :
    (Instr.resyncDrop 0x54#8).wf = true ∧ (Instr.shortBody [0x01#8]).wf = true ∧
      (Instr.tlvTypeGen 0x02#8 3#4 1#4 0x00#8 0x00#8 0x00#8).wf = true ∧
      (Instr.modeInvalid 0x05#8 0x03#8 0x03#8 0x00#8).wf = true := by decide

/-! ## Decoding: codes written out from R64, R66, R69, R74 and R132, one for each constructor -/

theorem test_decode_reset : decode (.request 0b0000#4 []) = .ok .reset := rfl
theorem test_decode_feed_byte : decode (.request 0b0001#4 [0b10101101#8]) = .ok (.feedByte 0xAD#8) := rfl
theorem test_decode_crc8 : decode (.request 0b0010#4 [0x01#8]) = .ok (.crc8 [0x01#8]) := rfl
theorem test_decode_frame_encode :
    decode (.request 0b0011#4 [0x20#8, 0x05#8, 0x02#8]) = .ok (.frameEncode 0x20#8 0x05#8 [0x02#8]) := rfl
theorem test_decode_frame_validate : decode (.request 0b0100#4 [0x55#8]) = .ok (.frameValidate [0x55#8]) := rfl
theorem test_decode_decode_body : decode (.request 0b0101#4 [0x01#8]) = .ok (.decodeBody [0x01#8]) := rfl
theorem test_decode_build_sensor_frame :
    decode (.request 0b0110#4 [0x02#8, 0b00011010#8, 0x03#8, 0xE8#8, 0x01#8]) = .ok (.buildSensorFrame 0x02#8 [⟨1#4, 10#4, 1000#16, 0x01#8⟩]) := rfl
theorem test_decode_build_actuator_frame :
    decode (.request 0b0111#4 [0x05#8, 0x03#8, 0x02#8, 0xC8#8]) = .ok (.buildActuatorFrame 0x05#8 0x03#8 0x02#8 0xC8#8) := rfl
theorem test_decode_feed :
    decode (.request 0b1000#4 [0x00#8, 0x55#8, 0x00#8]) = .ok (.feed [0x00#8, 0x55#8, 0x00#8]) := rfl
theorem test_decode_reserved_9 : decode (.request 0b1001#4 []) = .ok .reserved9 := rfl
theorem test_decode_reserved_A : decode (.request 0b1010#4 []) = .ok .reservedA := rfl
theorem test_decode_reserved_B : decode (.request 0b1011#4 []) = .ok .reservedB := rfl
theorem test_decode_reserved_C : decode (.request 0b1100#4 []) = .ok .reservedC := rfl
theorem test_decode_reserved_D : decode (.request 0b1101#4 []) = .ok .reservedD := rfl
theorem test_decode_reserved_E : decode (.request 0b1110#4 []) = .ok .reservedE := rfl
theorem test_decode_reserved_F : decode (.request 0b1111#4 []) = .ok .reservedF := rfl
theorem test_decode_frame_start : decode (.head 0b01010101#8) = .ok .frameStart := rfl
theorem test_decode_resync_drop : decode (.head 0b01010100#8) = .ok (.resyncDrop 0x54#8) := rfl
theorem test_decode_cmd_sensor_report :
    decode (.body [0b00000001#8, 0x09#8]) = .ok (.cmdSensorReport 0x09#8 []) := rfl
theorem test_decode_cmd_actuator :
    decode (.body [0b00100000#8, 0x05#8, 0x02#8, 0x03#8, 0xC8#8]) = .ok (.cmdActuator 0x05#8 [0x02#8, 0x03#8, 0xC8#8]) := rfl
theorem test_decode_cmd_unknown :
    decode (.body [0b01111111#8, 0x01#8, 0x01#8]) = .ok (.cmdUnknown 0x7F#8 0x01#8 [0x01#8]) := rfl
theorem test_decode_short_body : decode (.body [0b00000001#8]) = .ok (.shortBody [0x01#8]) := rfl
theorem test_decode_tlv_type_temp :
    decode (.entry 0x02#8 0b00000001#8 0x00#8 0xEB#8 0x00#8) = .ok (.tlvTypeTemp 0x02#8 1#4 0x00#8 0xEB#8 0x00#8) := rfl
theorem test_decode_tlv_type_hum :
    decode (.entry 0xFF#8 0b00011010#8 0x03#8 0xE8#8 0x01#8) = .ok (.tlvTypeHum 0xFF#8 10#4 0x03#8 0xE8#8 0x01#8) := rfl
theorem test_decode_tlv_type_press :
    decode (.entry 0xFF#8 0b00100010#8 0x27#8 0x94#8 0x00#8) = .ok (.tlvTypePress 0xFF#8 2#4 0x27#8 0x94#8 0x00#8) := rfl
theorem test_decode_tlv_type_gen :
    decode (.entry 0xFF#8 0b00110000#8 0x00#8 0x00#8 0x00#8) = .ok (.tlvTypeGen 0xFF#8 3#4 0#4 0x00#8 0x00#8 0x00#8) := rfl
theorem test_decode_mode_off :
    decode (.mode 0x05#8 0b00000000#8 0x03#8 0xC8#8) = .ok (.modeOff 0x05#8 0x03#8 0xC8#8) := rfl
theorem test_decode_mode_on :
    decode (.mode 0x05#8 0b00000001#8 0x03#8 0xC8#8) = .ok (.modeOn 0x05#8 0x03#8 0xC8#8) := rfl
theorem test_decode_mode_pwm :
    decode (.mode 0x05#8 0b00000010#8 0x03#8 0xC8#8) = .ok (.modePwm 0x05#8 0x03#8 0xC8#8) := rfl
theorem test_decode_mode_invalid :
    decode (.mode 0x05#8 0b00000011#8 0x03#8 0xC8#8) = .ok (.modeInvalid 0x05#8 0x03#8 0x03#8 0xC8#8) := rfl

/-- A request without its operand, with one too many, or with a broken entry is rejected by name (R31). -/
theorem test_decode_rejects_malformed_requests :
    decode (.request 0x1#4 []) = .error (.missingOperand 0x1#4) ∧
      decode (.request 0x0#4 [0x00#8]) = .error (.extraOperand 0x0#4) ∧
      decode (.request 0x6#4 [0x02#8, 0x01#8]) = .error (.raggedEntries 0x6#4) := ⟨rfl, rfl, rfl⟩

/-- A reserved selector is its reserved row whatever follows it (R75). -/
theorem test_decode_reserved_with_operands : decode (.request 0x9#4 [0x01#8]) = .ok .reserved9 := rfl

/-- Bare table words of rows no other format shadows (log entry 7). -/
theorem test_table_words :
    decodeTableWord 8 0x01 = some (.feedByte 0x00#8) ∧ decodeTableWord 8 0x0F = some .reservedF ∧
      decodeTableWord 8 0x55 = some .frameStart ∧ decodeTableWord 8 0x20 = some (.cmdActuator 0x00#8 []) ∧
      decodeTableWord 8 0x10 = some (.tlvTypeHum 0x00#8 0#4 0x00#8 0x00#8 0x00#8) ∧
      decodeTableWord 8 0x21 = some (.tlvTypePress 0x00#8 1#4 0x00#8 0x00#8 0x00#8) := by decide +kernel

/-! ## CRC8, section 2 -/

theorem test_crc8_vectors :
    run (.crc8 []) [] = some ([], some (.crc 0x00#8)) ∧ run (.crc8 [0x01#8]) [] = some ([], some (.crc 0x31#8)) := by
  decide +kernel

/-- The check value, and the residue of S; 2.1. -/
theorem test_crc8_check_value :
    crc8 [0x31#8, 0x32#8, 0x33#8, 0x34#8, 0x35#8, 0x36#8, 0x37#8, 0x38#8, 0x39#8] = 0xA2#8 ∧
      crc8 (frameS.drop 1) = 0x00#8 := by decide +kernel

/-- Rows 0 to 7 of the table of 2.3. -/
def crcTable0 : List Byte :=
    [0x00#8, 0x31#8, 0x62#8, 0x53#8, 0xC4#8, 0xF5#8, 0xA6#8, 0x97#8, 0xB9#8, 0x88#8, 0xDB#8, 0xEA#8, 0x7D#8, 0x4C#8, 0x1F#8, 0x2E#8] ++
    [0x43#8, 0x72#8, 0x21#8, 0x10#8, 0x87#8, 0xB6#8, 0xE5#8, 0xD4#8, 0xFA#8, 0xCB#8, 0x98#8, 0xA9#8, 0x3E#8, 0x0F#8, 0x5C#8, 0x6D#8] ++
    [0x86#8, 0xB7#8, 0xE4#8, 0xD5#8, 0x42#8, 0x73#8, 0x20#8, 0x11#8, 0x3F#8, 0x0E#8, 0x5D#8, 0x6C#8, 0xFB#8, 0xCA#8, 0x99#8, 0xA8#8] ++
    [0xC5#8, 0xF4#8, 0xA7#8, 0x96#8, 0x01#8, 0x30#8, 0x63#8, 0x52#8, 0x7C#8, 0x4D#8, 0x1E#8, 0x2F#8, 0xB8#8, 0x89#8, 0xDA#8, 0xEB#8] ++
    [0x3D#8, 0x0C#8, 0x5F#8, 0x6E#8, 0xF9#8, 0xC8#8, 0x9B#8, 0xAA#8, 0x84#8, 0xB5#8, 0xE6#8, 0xD7#8, 0x40#8, 0x71#8, 0x22#8, 0x13#8] ++
    [0x7E#8, 0x4F#8, 0x1C#8, 0x2D#8, 0xBA#8, 0x8B#8, 0xD8#8, 0xE9#8, 0xC7#8, 0xF6#8, 0xA5#8, 0x94#8, 0x03#8, 0x32#8, 0x61#8, 0x50#8] ++
    [0xBB#8, 0x8A#8, 0xD9#8, 0xE8#8, 0x7F#8, 0x4E#8, 0x1D#8, 0x2C#8, 0x02#8, 0x33#8, 0x60#8, 0x51#8, 0xC6#8, 0xF7#8, 0xA4#8, 0x95#8] ++
    [0xF8#8, 0xC9#8, 0x9A#8, 0xAB#8, 0x3C#8, 0x0D#8, 0x5E#8, 0x6F#8, 0x41#8, 0x70#8, 0x23#8, 0x12#8, 0x85#8, 0xB4#8, 0xE7#8, 0xD6#8]

/-- Rows 8 to 15 of the table of 2.3. -/
def crcTable1 : List Byte :=
    [0x7A#8, 0x4B#8, 0x18#8, 0x29#8, 0xBE#8, 0x8F#8, 0xDC#8, 0xED#8, 0xC3#8, 0xF2#8, 0xA1#8, 0x90#8, 0x07#8, 0x36#8, 0x65#8, 0x54#8] ++
    [0x39#8, 0x08#8, 0x5B#8, 0x6A#8, 0xFD#8, 0xCC#8, 0x9F#8, 0xAE#8, 0x80#8, 0xB1#8, 0xE2#8, 0xD3#8, 0x44#8, 0x75#8, 0x26#8, 0x17#8] ++
    [0xFC#8, 0xCD#8, 0x9E#8, 0xAF#8, 0x38#8, 0x09#8, 0x5A#8, 0x6B#8, 0x45#8, 0x74#8, 0x27#8, 0x16#8, 0x81#8, 0xB0#8, 0xE3#8, 0xD2#8] ++
    [0xBF#8, 0x8E#8, 0xDD#8, 0xEC#8, 0x7B#8, 0x4A#8, 0x19#8, 0x28#8, 0x06#8, 0x37#8, 0x64#8, 0x55#8, 0xC2#8, 0xF3#8, 0xA0#8, 0x91#8] ++
    [0x47#8, 0x76#8, 0x25#8, 0x14#8, 0x83#8, 0xB2#8, 0xE1#8, 0xD0#8, 0xFE#8, 0xCF#8, 0x9C#8, 0xAD#8, 0x3A#8, 0x0B#8, 0x58#8, 0x69#8] ++
    [0x04#8, 0x35#8, 0x66#8, 0x57#8, 0xC0#8, 0xF1#8, 0xA2#8, 0x93#8, 0xBD#8, 0x8C#8, 0xDF#8, 0xEE#8, 0x79#8, 0x48#8, 0x1B#8, 0x2A#8] ++
    [0xC1#8, 0xF0#8, 0xA3#8, 0x92#8, 0x05#8, 0x34#8, 0x67#8, 0x56#8, 0x78#8, 0x49#8, 0x1A#8, 0x2B#8, 0xBC#8, 0x8D#8, 0xDE#8, 0xEF#8] ++
    [0x82#8, 0xB3#8, 0xE0#8, 0xD1#8, 0x46#8, 0x77#8, 0x24#8, 0x15#8, 0x3B#8, 0x0A#8, 0x59#8, 0x68#8, 0xFF#8, 0xCE#8, 0x9D#8, 0xAC#8]

/-- The full table of 2.3. -/
theorem test_crc8_table :
    (List.range 256).map (fun i => crc8 [BitVec.ofNat 8 i]) = crcTable0 ++ crcTable1 := by decide +kernel

/-! ## The codec, sections 3.1 and 3.2 -/

/-- 3.1.1 and 3.1.5. -/
theorem test_frame_encode :
    run (.frameEncode 0x01#8 0x02#8 [0x01#8, 0x01#8, 0x00#8, 0xEB#8, 0x00#8]) [0x11#8] =
        some ([0x11#8], some (.frame frameS)) ∧
      run (.frameEncode 0xFF#8 0xFF#8 [0xFF#8]) [] =
        some ([], some (.frame [0x55#8, 0x03#8, 0xFF#8, 0xFF#8, 0xFF#8, 0xFA#8])) := by decide +kernel

/-- 3.1.7. -/
theorem test_frame_encode_overflow :
    run (.frameEncode 0x20#8 0x00#8 (List.replicate 254 0x00#8)) [] = some ([], some (.bodyOverflow 256)) ∧
      faultsOf (.frameEncode 0x20#8 0x00#8 (List.replicate 254 0x00#8)) = some [.bodyOverflow] := by decide +kernel

/-- 3.2.1, 3.2.3, 3.2.10 and 3.2.11. -/
theorem test_frame_validate :
    validate frameS = .valid bodyS ∧ validate [0x55#8, 0x00#8, 0x00#8] = .valid [] ∧
      validate [0x55#8, 0x00#8, 0x01#8] = .crcFail ∧
      run (.frameValidate (frameS.set 7 0xEA#8)) [] = some ([], some (.validated .crcFail)) := by decide +kernel

/-- 3.2.4 and 3.2.6 to 3.2.9. -/
theorem test_frame_validate_shape :
    validate [] = .shapeFail ∧ validate [0x55#8, 0x00#8] = .shapeFail ∧
      validate [0x54#8, 0x00#8, 0x00#8] = .shapeFail ∧ validate [0x55#8, 0x01#8, 0x00#8] = .shapeFail ∧
      run (.frameValidate (frameS ++ [0x00#8])) [] = some ([], some (.validated .shapeFail)) := by decide +kernel

/-! ## The reassembler, section 4 -/

/-- 4.1. -/
theorem test_feed_resync :
    run (.feed ([0x00#8, 0xFF#8] ++ frameS)) [] = some ([], some (.fed [bodyS] [readingS])) ∧
      traceOf (.feed ([0x00#8, 0xFF#8] ++ frameS)) [] =
        some (some [.resyncDrop 0x00#8, .resyncDrop 0xFF#8, .accept bodyS, .waitShort]) := by decide +kernel

/-- 4.7: the length byte 07 changed to 0B loses the frame after it. -/
theorem test_feed_lost_frame :
    run (.feed (frameS.set 1 0x0B#8 ++ frameS)) [] =
      some ([0x00#8, 0xEB#8, 0x00#8, 0xAD#8], some (.fed [] [])) := by decide +kernel

/-- R139's example, and 4.12. -/
theorem test_feed_byte :
    run (.feedByte 0xAD#8) (frameS.dropLast) = some ([], some (.fed [bodyS] [readingS])) ∧
      run (.feedByte 0x04#8) [0x00#8, 0x01#8, 0x02#8, 0x03#8] =
        some ([0x01#8, 0x02#8, 0x03#8, 0x04#8], some (.fed [] [])) := by decide +kernel

/-- 4.13: L = 255 waits for 258 bytes (R234). -/
theorem test_feed_waits_for_258_bytes :
    traceOf (.feed [0x55#8, 0xFF#8, 0x00#8, 0x00#8, 0x00#8]) [] = some (some [.waitFrame]) := by decide +kernel

/-- The first iteration of 4.7 alone, and a whole frame with a byte behind it. -/
theorem test_frame_start :
    run .frameStart (frameS.set 1 0x0B#8 ++ frameS) =
        some ([0x01#8, 0x01#8, 0x00#8, 0xEB#8, 0x00#8, 0xAD#8], some (.fed [] [])) ∧
      run .frameStart (frameS ++ [0x11#8]) = some ([0x11#8], some (.fed [bodyS] [readingS])) := by decide +kernel

/-- 4.12: one byte is dropped; from four bytes none is. -/
theorem test_resync_drop :
    run (.resyncDrop 0x00#8) [0x00#8, 0x01#8, 0x02#8, 0x03#8, 0x04#8] =
        some ([0x01#8, 0x02#8, 0x03#8, 0x04#8], some (.fed [] [])) ∧
      run (.resyncDrop 0x00#8) [0x00#8, 0x01#8, 0x02#8, 0x03#8] =
        some ([0x00#8, 0x01#8, 0x02#8, 0x03#8], some (.fed [] [])) := by decide +kernel

/-! ## Dispatch and the TLV parser, section 5 -/

/-- 5.1.8: truncated after one entry. -/
theorem test_decode_body_truncated :
    run (.decodeBody [0x01#8, 0x0A#8, 0x02#8, 0x12#8, 0x01#8, 0xF4#8, 0x07#8, 0x23#8]) [] =
      some ([], some (.decoded ⟨.sensorReport, [⟨1#4, 0x0A#8, 2#4, 500#16⟩], .truncated⟩)) := by decide +kernel

/-- 5.1.5, 5.1.6 and 5.1.9. -/
theorem test_decode_body_classes :
    dispatch [0x7F#8, 0x01#8, 0x01#8, 0x00#8] = ⟨.unknownCommand, [], .notParsed⟩ ∧
      dispatch [0x01#8, 0x09#8] = ⟨.sensorReport, [], .noCount⟩ ∧
      dispatch [0x01#8, 0x0B#8, 0x01#8, 0x20#8, 0x27#8, 0x10#8, 0x00#8, 0x31#8, 0xFF#8, 0xFF#8] =
        ⟨.sensorReport, [⟨2#4, 0x0B#8, 0#4, 10000#16⟩], .complete⟩ := by decide +kernel

/-- 5.1.1. -/
theorem test_cmd_sensor_report :
    run (.cmdSensorReport 0x02#8 (bodyS.drop 2)) [] =
      some ([], some (.decoded ⟨.sensorReport, [readingS], .complete⟩)) := by decide +kernel

/-- 5.1.2. -/
theorem test_cmd_actuator :
    run (.cmdActuator 0x05#8 [0x02#8, 0x03#8, 0xC8#8]) [] =
      some ([], some (.decoded ⟨.actuatorCommand, [], .notParsed⟩)) := by decide +kernel

/-- 5.1.5. -/
theorem test_cmd_unknown :
    run (.cmdUnknown 0x7F#8 0x01#8 [0x01#8]) [] =
      some ([], some (.decoded ⟨.unknownCommand, [], .notParsed⟩)) := by decide +kernel

/-- 5.1.3. -/
theorem test_short_body :
    run (.shortBody []) [] = some ([], some (.decoded ⟨.shortBody, [], .notParsed⟩)) := by decide +kernel

/-- 5.1.11 and 5.1.10. -/
theorem test_tlv_rows :
    run (.tlvTypeTemp 0x64#8 0#4 0x00#8 0x05#8 0x00#8) [] =
        some ([], some (.entry .temp ⟨0#4, 0x64#8, 0#4, 5#16⟩)) ∧
      run (.tlvTypeHum 0xFF#8 10#4 0x03#8 0xE8#8 0x01#8) [] =
        some ([], some (.entry .hum ⟨1#4, 0xFF#8, 10#4, 1000#16⟩)) ∧
      run (.tlvTypePress 0xFF#8 2#4 0x27#8 0x94#8 0x00#8) [] =
        some ([], some (.entry .press ⟨2#4, 0xFF#8, 2#4, 10132#16⟩)) ∧
      run (.tlvTypeGen 0xFF#8 15#4 15#4 0xFF#8 0xFF#8 0xAA#8) [] =
        some ([], some (.entry .gen ⟨15#4, 0xFF#8, 15#4, 65535#16⟩)) := by decide +kernel

/-- 5.1.11 and 5.1.1: the identifiers. -/
theorem test_sensor_id :
    (Reading.mk 0#4 0x64#8 0#4 5#16).sensorId = ['T', 'E', 'M', 'P', '_', '1', '0', '0', '_', '0'] ∧
      readingS.sensorId = ['T', 'E', 'M', 'P', '_', '0', '2', '_', '1'] := by decide

/-! ## The builders, section 6 -/

/-- 6.1 and 6.3. -/
theorem test_build_sensor_frame :
    run (.buildSensorFrame 0x02#8 [⟨0#4, 1#4, 235#16, 0x00#8⟩]) [] = some ([], some (.frame frameS)) ∧
      run (.buildSensorFrame 0x64#8 [⟨0#4, 0#4, 5#16, 0x00#8⟩]) [] =
        some ([], some (.frame [0x55#8, 0x07#8, 0x01#8, 0x64#8, 0x01#8, 0x00#8, 0x00#8, 0x05#8, 0x00#8, 0xA3#8])) := by
  decide +kernel

/-- 6.5. -/
theorem test_build_sensor_frame_overflow :
    run (.buildSensorFrame 0x00#8 (List.replicate 64 ⟨0#4, 0#4, 0#16, 0x00#8⟩)) [] =
      some ([], some (.bodyOverflow 259)) := by decide +kernel

/-- 6.6, and 6.9: the id masked to 0F. -/
theorem test_build_actuator_frame :
    run (.buildActuatorFrame 0x05#8 0x03#8 0x02#8 0xC8#8) [] = some ([], some (.frame frameA)) ∧
      run (.buildActuatorFrame 0x10#8 0x1F#8 0x01#8 0x00#8) [] =
        some ([], some (.frame [0x55#8, 0x05#8, 0x20#8, 0x10#8, 0x01#8, 0x0F#8, 0x00#8, 0x25#8])) := by
  decide +kernel

/-- 6.10: the error is not recorded. -/
theorem test_build_actuator_frame_invalid :
    run (.buildActuatorFrame 0x05#8 0x03#8 0x03#8 0xC8#8) [] = some ([], some (.invalidMode 0x03#8)) ∧
      faultsOf (.buildActuatorFrame 0x05#8 0x03#8 0x03#8 0xC8#8) = some [] := by decide +kernel

/-- 6.7, 6.8, 6.6 and 6.11. -/
theorem test_mode_rows :
    run (.modeOff 0x05#8 0x03#8 0xC8#8) [] =
        some ([], some (.frame [0x55#8, 0x05#8, 0x20#8, 0x05#8, 0x00#8, 0x03#8, 0xC8#8, 0x84#8])) ∧
      run (.modeOn 0x05#8 0x03#8 0xC8#8) [] =
        some ([], some (.frame [0x55#8, 0x05#8, 0x20#8, 0x05#8, 0x01#8, 0x03#8, 0xC8#8, 0xC2#8])) ∧
      run (.modePwm 0x05#8 0x03#8 0xC8#8) [] = some ([], some (.frame frameA)) ∧
      run (.modeInvalid 0x05#8 0xFF#8 0x03#8 0xC8#8) [] = some ([], some (.invalidMode 0xFF#8)) := by
  decide +kernel

/-! ## Reset, refusal and the step, section 7 -/

/-- 7.1 and 7.3. -/
theorem test_reset :
    run .reset [0x55#8, 0xFF#8, 0x00#8, 0x00#8, 0x00#8] = some ([], some .done) ∧
      (after (exec .reset { State.reset with faults := [.bodyOverflow] })).map (fun s => s.faults) =
        some [.bodyOverflow] := by decide +kernel

/-- 7.4, through the step. -/
theorem test_reserved_request :
    after (step { st [0x55#8, 0x07#8, 0x01#8, 0x02#8] with port := [.request 0x9#4 [0xAA#8]] }) =
      some { st [0x55#8, 0x07#8, 0x01#8, 0x02#8] with responses := [.refused 0x9#4], runRefused := true } := by
  decide +kernel

/-- R75: each reserved row answers with its own selector. -/
theorem test_reserved_rows :
    [Instr.reserved9, .reservedA, .reservedB, .reservedC, .reservedD, .reservedE, .reservedF].map
        (fun i => (run i []).map fun x => x.2) =
      [some (some (.refused 9#4)), some (some (.refused 10#4)), some (some (.refused 11#4)),
        some (some (.refused 12#4)), some (some (.refused 13#4)), some (some (.refused 14#4)),
        some (some (.refused 15#4))] := by decide +kernel

/-- P2 step 1, through the step, with a request waiting behind it. -/
theorem test_step_serves_the_oldest :
    (after (step { State.reset with port := [.request 0x7#4 [0x05#8, 0x03#8, 0x02#8, 0xC8#8], .request 0x0#4 []] })).map
        (fun s => (s.port, s.responses)) =
      some ([.request 0x0#4 []], [.frame frameA]) := by decide +kernel

/-- A bare table word runs as the first instruction after reset; 0x55 stands at the head of 55 00 00 00 00, whose
first three bytes are the frame of 3.2.3. -/
theorem test_step_runs_the_fetched_word :
    (after (step (State.reset.withFetchWord 8 0x55))).map (fun s => (s.buf, s.responses)) =
        some ([0x00#8, 0x00#8], [.fed [[]] []]) ∧
      (after (step (State.reset.withFetchWord 8 0x02))).map (fun s => s.responses) = some [.crc 0x00#8] ∧
      (after (step (State.reset.withFetchWord 8 0x20))).map (fun s => s.responses) =
        some [.decoded ⟨.actuatorCommand, [], .notParsed⟩] := by decide +kernel

/-! ## Witnesses: for every statement with hypotheses, values that meet all of them -/

theorem test_witness_DecodeOfEncode :
    (Instr.tlvTypeGen 0xFF#8 15#4 15#4 0xFF#8 0xFF#8 0xAA#8).wf = true ∧
      (Instr.buildSensorFrame 0x02#8 [⟨15#4, 15#4, 65535#16, 0xFF#8⟩]).wf = true := by decide

theorem test_witness_EncodeOfDecode :
    decode (.request 0x6#4 [0x02#8, 0xFF#8, 0xFF#8, 0xFF#8, 0xAA#8]) =
        .ok (.buildSensorFrame 0x02#8 [⟨15#4, 15#4, 65535#16, 0xAA#8⟩]) ∧
      (Code.request 0x6#4 [0x02#8, 0xFF#8, 0xFF#8, 0xFF#8, 0xAA#8]).canonical = true := ⟨rfl, by decide⟩

theorem test_witness_DecodeAnswersTheOnlyTableRow :
    decode (.entry 0x02#8 0x30#8 0x00#8 0x00#8 0x00#8) =
        .ok (.tlvTypeGen 0x02#8 3#4 0#4 0x00#8 0x00#8 0x00#8) ∧
      (Instr.tlvTypeGen 0x02#8 9#4 0#4 0x00#8 0x00#8 0x00#8).row.admits (.entry 0x02#8 0x30#8 0x00#8 0x00#8 0x00#8) =
        true := ⟨rfl, by decide⟩

theorem test_witness_StepRunsTheDecodedInstruction :
    ({ State.reset with port := [.request 0x1#4 [0x55#8]] } : State).port = [.request 0x1#4 [0x55#8]] ∧
      fetch (.request 0x1#4 [0x55#8]) { State.reset with port := [] } = some (.request 0x1#4 [0x55#8]) ∧
      decode (.request 0x1#4 [0x55#8]) = .ok (.feedByte 0x55#8) ∧ (Instr.feedByte 0x55#8).wf = true :=
  ⟨rfl, rfl, rfl, rfl⟩

theorem test_witness_StepWithoutRequestChangesNothing : (st [0x55#8]).port = [] := rfl

theorem test_witness_StepStopsOnlyOnMalformedRequest :
    step { State.reset with port := [.request 0x1#4 []] } =
      .refused (.malformedRequest (.missingOperand 0x1#4)) := rfl

theorem test_witness_ReservedRequestIsRefused :
    ({ State.reset with port := [.request 0x9#4 []] } : State).port = [.request 0x9#4 []] ∧ 9 ≤ (0x9#4).toNat ∧
      9 ≤ (0xF#4).toNat := by decide

theorem test_witness_OneResponsePerRequestInOrder :
    ∃ t, step { State.reset with port := [.request 0x0#4 [], .request 0x2#4 []] } = .next t := ⟨_, rfl⟩

theorem test_witness_RecordsOnlyGrow :
    ∃ t, step { State.reset with faults := [.bodyOverflow], runRefused := true, port := [.request 0x0#4 []] } = .next t :=
  ⟨_, rfl⟩

theorem test_witness_RunServesEveryRequest :
    ∀ item ∈ ({ State.reset with port := [.request 0x0#4 [], .probeHead] } : State).port, item.decodes := by
  intro item h
  simp only [List.mem_cons, List.not_mem_nil, or_false] at h
  rcases h with rfl | rfl
  · exact ⟨.reset, rfl⟩
  · trivial

theorem test_witness_StepKeepsInv :
    State.Inv { st [0x55#8, 0xFF#8, 0x00#8, 0x00#8, 0x00#8] with port := [.request 0x9#4 []] } ∧
      ∃ t, step { st [0x55#8, 0xFF#8, 0x00#8, 0x00#8, 0x00#8] with port := [.request 0x9#4 []] } = .next t :=
  ⟨by decide, _, rfl⟩

/-- The bitwise procedure written out in the statement gives the check value of R105. -/
theorem test_crcBitwise_check_value :
    crcBitwise [0x31#8, 0x32#8, 0x33#8, 0x34#8, 0x35#8, 0x36#8, 0x37#8, 0x38#8, 0x39#8] = 0xA2 := by decide +kernel

/-- A drop, then the short wait. -/
theorem test_witness_PassLengthIsBounded :
    Passes [0x00#8, 0x55#8, 0x00#8, 0x00#8, 0x01#8] [.resyncDrop 0x00#8, .waitShort] []
      [0x55#8, 0x00#8, 0x00#8, 0x01#8] :=
  .resync _ _ _ _ _ (by decide) (by decide) (.waitShort _ (by decide))

theorem test_witness_Crc8Laws : ([0x01#8, 0x02#8] : List Byte).length = ([0xFF#8, 0x55#8] : List Byte).length := rfl

/-- A byte of the body of S, and its checksum byte, the last one. -/
theorem test_witness_Crc8DetectsEverySingleByteError :
    (0xEB#8 : Byte) ≠ 0xEA#8 ∧ bodyS.length ≤ Config.maxBody ∧ 9 < (frameOf bodyS).length ∧
      (frameOf bodyS)[9]? ≠ some 0xAC#8 ∧ (frameOf bodyS)[2]? ≠ some 0x55#8 := by decide +kernel

theorem test_witness_FrameEncodeAnswersTheFrame :
    (List.replicate 253 (0x55#8 : Byte)).length ≤ Config.maxPayload := by decide +kernel

theorem test_witness_FrameEncodeOverflows :
    Config.maxPayload < (List.replicate 254 (0x55#8 : Byte)).length := by decide +kernel

theorem test_witness_ValidateOfEncode : (List.replicate 253 (0x00#8 : Byte)).length ≤ Config.maxPayload := by decide +kernel

/-- The body of S is VALID on S; the body with another last byte is CRC_FAIL. -/
theorem test_witness_FrameValidateJudgesEveryCandidate :
    bodyS.length ≤ Config.maxBody ∧ frameS = frameOf bodyS ∧
      frameS.set 9 0x52#8 = Config.startByte :: lengthByte bodyS :: (bodyS ++ [0x52#8]) ∧
      0x52#8 ≠ crc8 (lengthByte bodyS :: bodyS) := by decide +kernel

/-- Passes of every form of R135 exist: short wait, frame wait, drop, accept, integrity drop. -/
theorem test_witness_FeedIsOnePass :
    Passes ([0x00#8, 0x01#8] ++ [0x02#8, 0x03#8]) [.waitShort] [] [0x00#8, 0x01#8, 0x02#8, 0x03#8] ∧
      Passes [0x55#8, 0xFF#8, 0x00#8, 0x00#8, 0x00#8] [.waitFrame] [] [0x55#8, 0xFF#8, 0x00#8, 0x00#8, 0x00#8] ∧
      Passes [0x00#8, 0x01#8, 0x02#8, 0x03#8, 0x04#8] [.resyncDrop 0x00#8, .waitShort] []
        [0x01#8, 0x02#8, 0x03#8, 0x04#8] ∧
      Passes [0x55#8, 0x00#8, 0x00#8, 0x11#8, 0x22#8] [.accept [], .waitShort] [[]] [0x11#8, 0x22#8] ∧
      Passes [0x55#8, 0x00#8, 0x12#8, 0x55#8, 0x07#8] [.integrityDrop, .waitShort] [] [0x55#8, 0x07#8] :=
  ⟨.waitShort _ (by decide), .waitFrame 0xFF#8 [0x00#8, 0x00#8, 0x00#8] (by decide) (by decide),
    .resync 0x00#8 _ _ _ _ (by decide) (by decide) (.waitShort _ (by decide)),
    .accept 0x00#8 [] [0x11#8, 0x22#8] _ _ _ (by decide) (by decide) (.waitShort _ (by decide)),
    .integrityDrop 0x00#8 0x12#8 [] [0x55#8, 0x07#8] _ _ _ (by decide) (by decide) (by decide +kernel)
      (.waitShort _ (by decide))⟩

theorem test_witness_FeedIsFeedByteOfEachByte :
    (([0x04#8] : List Byte) ≠ [] ∨ Stable (st [0x00#8, 0x01#8, 0x02#8, 0x03#8, 0x04#8]).buf) ∧
      (([] : List Byte) ≠ [] ∨ Stable (st [0x55#8, 0x03#8, 0x00#8, 0x00#8, 0x00#8]).buf) := by decide

theorem test_witness_EmptyFeedKeepsStableBuffer : Stable (st [0x55#8, 0x00#8, 0x00#8]).buf := by decide

theorem test_witness_FeedByteTakesOneAction : Stable (st frameS.dropLast).buf := by decide

theorem test_witness_FeedByteKeepsWithinCapacity :
    Stable (st (0x55#8 :: 0xFF#8 :: List.replicate 255 0x00#8)).buf ∧
      ((st (0x55#8 :: 0xFF#8 :: List.replicate 255 0x00#8)).buf ++ [0x00#8]).length = 258 := by decide +kernel

/-- One stable buffer for each row of R144: three bytes; four with another head; four with L = 3, L = 2 and L = 0;
five and more, more than one byte and one byte before the frame is whole. -/
theorem test_witness_FeedByteTransitions :
    (Stable [0x00#8, 0x01#8, 0x02#8] ∧ ([0x00#8, 0x01#8, 0x02#8] : List Byte).length ≤ 3) ∧
      Stable [0x54#8, 0x01#8, 0x02#8, 0x03#8] ∧ Stable [0x55#8, 0x03#8, 0x02#8, 0x03#8] ∧
      Stable [0x55#8, 0x02#8, 0x02#8, 0x03#8] ∧ Stable [0x55#8, 0x00#8, 0x00#8, 0x03#8] ∧
      Stable [0x55#8, 0x04#8, 0x01#8, 0x02#8, 0x03#8] ∧ Stable [0x55#8, 0x03#8, 0x01#8, 0x02#8, 0x03#8] := by decide

theorem test_witness_PartialFrameWaits :
    (st [0x55#8, 0xFF#8, 0x00#8]).buf = Config.startByte :: 0xFF#8 :: [0x00#8] ∧
      Config.minBuf ≤ ((st [0x55#8, 0xFF#8, 0x00#8]).buf ++ List.replicate 254 0x00#8).length ∧
      ((st [0x55#8, 0xFF#8, 0x00#8]).buf ++ List.replicate 254 0x00#8).length < (0xFF#8).toNat + 3 := by
  decide +kernel

theorem test_witness_ShortBufferWaits :
    ((st [0x55#8, 0x00#8]).buf ++ [0x00#8]).length < Config.minBuf ∧
      ((st [0x55#8, 0x01#8]).buf ++ [0x01#8, 0xC5#8]).length < Config.minBuf := by decide

theorem test_witness_FrameStreamIsRecovered :
    (st []).buf = [] ∧ ∀ b ∈ [bodyS, [0x20#8, 0x05#8], List.replicate 255 0x55#8],
      2 ≤ b.length ∧ b.length ≤ Config.maxBody := by decide +kernel

/-- The checksum byte and the first body byte of S. -/
theorem test_witness_OneCorruptByteLosesOneFrame :
    (st []).buf = [] ∧ (∀ b ∈ [bodyS] ++ bodyS :: [bodyS], 2 ≤ b.length ∧ b.length ≤ Config.maxBody) ∧
      9 < (frameOf bodyS).length ∧ (frameOf bodyS)[9]? ≠ some 0x52#8 ∧ (frameOf bodyS)[2]? ≠ some 0x55#8 := by
  decide +kernel

theorem test_witness_ResyncFindsTheNextFrame :
    (st []).buf = [] ∧ Config.startByte ∉ ([0x00#8, 0xFF#8] : List Byte) ∧ 2 ≤ ([0x01#8, 0x09#8] : List Byte).length ∧
      (List.replicate 255 (0x00#8 : Byte)).length ≤ Config.maxBody := by decide +kernel

/-- The last length that waits, then a slice of five bytes whose checksum matches, then one of three bytes whose
checksum does not. -/
theorem test_witness_FrameStartRunsOneIteration :
    ((st [0x55#8, 0x03#8, 0x00#8, 0x00#8, 0x00#8]).buf = Config.startByte :: 0x03#8 :: [0x00#8, 0x00#8, 0x00#8] ∧
        Config.minBuf ≤ (st [0x55#8, 0x03#8, 0x00#8, 0x00#8, 0x00#8]).buf.length ∧
        (st [0x55#8, 0x03#8, 0x00#8, 0x00#8, 0x00#8]).buf.length < (0x03#8).toNat + 3) ∧
      ((st [0x55#8, 0x02#8, 0x20#8, 0x00#8, 0x50#8]).buf =
          Config.startByte :: 0x02#8 :: ([0x20#8, 0x00#8] ++ 0x50#8 :: []) ∧
        ([0x20#8, 0x00#8] : List Byte).length = (0x02#8).toNat ∧ 0x50#8 = crc8 [0x02#8, 0x20#8, 0x00#8]) ∧
      (st [0x55#8, 0x00#8, 0x12#8, 0x55#8, 0x07#8]).buf =
          Config.startByte :: 0x00#8 :: (([] : List Byte) ++ 0x12#8 :: [0x55#8, 0x07#8]) ∧
        0x12#8 ≠ crc8 [0x00#8] := by decide +kernel

theorem test_witness_ResyncDropDropsOneByte :
    (st [0x54#8, 0x01#8, 0x02#8, 0x03#8, 0x04#8]).buf = 0x54#8 :: [0x01#8, 0x02#8, 0x03#8, 0x04#8] ∧
      Config.minBuf ≤ (st [0x54#8, 0x01#8, 0x02#8, 0x03#8, 0x04#8]).buf.length ∧ 0x54#8 ≠ Config.startByte := by decide

theorem test_witness_HeadRowsWaitOnShortBuffer :
    (st [0x55#8, 0x00#8, 0x00#8, 0x00#8]).buf.length < Config.minBuf ∧ (st []).buf.length < Config.minBuf := by decide

/-- Each row at the other row's head, at its own head, and RESYNC_DROP at a droppable head that is not its operand. -/
theorem test_witness_HeadRowsStopWhereNotSelected :
    exec .frameStart (st [0x54#8, 0x00#8, 0x00#8, 0x00#8, 0x00#8]) = .fault .rowNotSelected ∧
      (∃ t, exec .frameStart (st [0x55#8, 0x00#8, 0x00#8, 0x00#8, 0x00#8]) = .next t) ∧
      exec (.resyncDrop 0x55#8) (st [0x55#8, 0x00#8, 0x00#8, 0x00#8, 0x00#8]) = .fault .rowNotSelected ∧
      exec (.resyncDrop 0x54#8) (st [0x00#8, 0x00#8, 0x00#8, 0x00#8, 0x00#8]) = .fault .rowNotSelected ∧
      ∃ t, exec (.resyncDrop 0x54#8) (st [0x54#8, 0x00#8, 0x00#8, 0x00#8, 0x00#8]) = .next t :=
  ⟨rfl, ⟨_, rfl⟩, rfl, rfl, _, rfl⟩

/-- A body for each clause: one byte, two bytes of an actuator command, two bytes of an unknown command. -/
theorem test_witness_DecodeBodyWithoutReadings :
    ([0x01#8] : List Byte).length < 2 ∧
      (2 ≤ ([0x20#8, 0x05#8] : List Byte).length ∧ ([0x20#8, 0x05#8] : List Byte)[0]? = some 0x20#8) ∧
      2 ≤ ([0x02#8, 0x05#8] : List Byte).length ∧ ([0x02#8, 0x05#8] : List Byte)[0]? ≠ some 0x01#8 ∧
      ([0x02#8, 0x05#8] : List Byte)[0]? ≠ some 0x20#8 := by decide

/-- Payloads for each clause: an entry read, no count byte, one byte short of an entry, exactly whole. -/
theorem test_witness_DecodeBodyReadsEveryEntryThatFits :
    (dispatch bodyS).readings = [readingS] ∧ (dispatch [0x01#8, 0x09#8]).tlv = .noCount ∧
      (dispatch [0x01#8, 0x09#8, 0x01#8, 0x00#8, 0x00#8, 0x00#8]).tlv = .truncated ∧
      (dispatch [0x01#8, 0x09#8, 0x01#8, 0x00#8, 0x00#8, 0x00#8, 0x00#8]).tlv = .complete := by decide +kernel

theorem test_witness_ReadingsPerBodyAreBounded :
    (0x01#8 :: 0x02#8 :: 0x40#8 :: List.replicate 252 0x00#8 : List Byte).length ≤ Config.maxBody ∧
      64 ≤ (0x40#8).toNat ∧
      (0x01#8 :: 0x02#8 :: 0x40#8 :: List.replicate 252 0x00#8 : List Byte)[0]? = some 0x01#8 := by decide +kernel

theorem test_witness_CommandRowsAreDispatchCases :
    (0x7F#8 : Byte) ≠ 0x01#8 ∧ (0x7F#8 : Byte) ≠ 0x20#8 ∧ ([0x01#8] : List Byte).length < 2 := by decide

theorem test_witness_EntryRowsAnswerTheReading : 3 ≤ (3#4).toNat ∧ 3 ≤ (15#4).toNat := by decide

theorem test_witness_BuildSensorFrameInvertsTheParser :
    (List.replicate 63 (⟨15#4, 15#4, 65535#16, 0xFF#8⟩ : SensorEntry)).length ≤ Config.maxReadingsPerBody := by decide

theorem test_witness_BuildSensorFrameBytes :
    ([⟨0#4, 1#4, 235#16, 0x00#8⟩] : List SensorEntry).length ≤ Config.maxReadingsPerBody ∧
      ([⟨0#4, 1#4, 235#16, 0x00#8⟩] : List SensorEntry)[0]? = some ⟨0#4, 1#4, 235#16, 0x00#8⟩ := by decide

theorem test_witness_BuildSensorFrameOverflows :
    Config.maxReadingsPerBody < (List.replicate 64 (⟨0#4, 0#4, 0#16, 0x00#8⟩ : SensorEntry)).length := by decide

theorem test_witness_BuildActuatorFrameAnswersTheFrame :
    ((0x00#8 : Byte) = 0x00#8 ∨ (0x00#8 : Byte) = 0x01#8 ∨ (0x00#8 : Byte) = 0x02#8) ∧
      ((0x02#8 : Byte) = 0x00#8 ∨ (0x02#8 : Byte) = 0x01#8 ∨ (0x02#8 : Byte) = 0x02#8) := by decide

theorem test_witness_InvalidModeIsAnError :
    ((0x03#8 : Byte) ≠ 0x00#8 ∧ (0x03#8 : Byte) ≠ 0x01#8 ∧ (0x03#8 : Byte) ≠ 0x02#8) ∧
      (0xFF#8 : Byte) ≠ 0x00#8 ∧ (0xFF#8 : Byte) ≠ 0x01#8 ∧ (0xFF#8 : Byte) ≠ 0x02#8 := by decide

theorem test_witness_ModeRowsAreBuilderCases :
    (0x03#8 : Byte) ≠ 0x00#8 ∧ (0x03#8 : Byte) ≠ 0x01#8 ∧ (0x03#8 : Byte) ≠ 0x02#8 := by decide

theorem test_witness_OtherRowsKeepTheBuffer :
    touchesBuffer .reserved9 = false ∧ ∃ t, exec .reserved9 (st [0x55#8]) = .next t := ⟨rfl, _, rfl⟩

theorem test_witness_BufferRowsKeepTheRest :
    touchesBuffer .frameStart = true ∧ ∃ t, exec .frameStart (st [0x55#8]) = .next t := ⟨rfl, _, rfl⟩

theorem test_witness_PureRequestsCommute :
    readsOnlyOperands (.crc8 [0x01#8]) ∧ ∃ t, exec (.feed [0x55#8]) State.reset = .next t :=
  ⟨.inl ⟨_, rfl⟩, _, rfl⟩

theorem test_witness_PureRequestsAreIdempotent :
    readsOnlyOperands (.frameEncode 0x20#8 0x00#8 (List.replicate 254 0x00#8)) := .inr (.inl ⟨_, _, _, rfl⟩)

end Sys2Proof.Tests
end

section
/-! SUPPORT. A step serves the oldest port item and answers it once, and no item whose code decodes stops the core
(spec/00_scope.md R7, R17; spec/10_state.md R30). -/

namespace Sys2Proof.Machine

/-! ## What an instruction and a step leave -/

/-- Whatever the row, an instruction that answers keeps the port and appends one response (R30). -/
theorem exec_next_port_responses {i : Instr} {s t : State} (h : exec i s = .next t) :
    t.port = s.port ∧ ∃ r, t.responses = s.responses ++ [r] := by
  cases hb : touchesBuffer i with
  | true =>
    obtain ⟨buf, traces, r, -, -, rfl⟩ := exec_of_touchesBuffer hb h
    exact ⟨rfl, r, rfl⟩
  | false =>
    obtain ⟨r, -, hr⟩ | ⟨n, hn⟩ | ⟨op, hop⟩ := exec_of_not_touchesBuffer i hb
    · cases (hr s).symm.trans h; exact ⟨rfl, r, rfl⟩
    · cases (hn s).symm.trans h; exact ⟨rfl, .bodyOverflow n, rfl⟩
    · cases (hop s).symm.trans h; exact ⟨rfl, .refused op, rfl⟩

theorem step_of_fetch_decode {s : State} {item : PortItem} {rest : List PortItem} {c : Code} {i : Instr}
    (hp : s.port = item :: rest) (hf : fetch item { s with port := rest } = some c) (hd : decode c = .ok i) :
    step s = exec i { s with port := rest } := by
  simp only [step, hp, hf, hd]

/-- A step that answers takes the oldest item off the port and appends one response (R30, R50). -/
theorem step_next_port_responses {s t : State} {item : PortItem} {rest : List PortItem}
    (hp : s.port = item :: rest) (h : step s = .next t) :
    t.port = rest ∧ ∃ r, t.responses = s.responses ++ [r] := by
  obtain ⟨hnil, -⟩ | ⟨rest', hp', -, hs⟩ | ⟨item', rest', c, i, hp', -, -, -, hs⟩ | ⟨_, _, _, _, -, -, hs⟩ :=
    step_cases s
  · cases hnil.symm.trans hp
  · cases hp'.symm.trans hp
    cases hs.symm.trans h
    exact ⟨rfl, .fed [] [], rfl⟩
  · cases hp'.symm.trans hp
    exact exec_next_port_responses (hs.symm.trans h)
  · cases hs.symm.trans h

/-! ## Where an instruction answers

Only the two rows that read the byte at the buffer head can fault, and the decoder takes them from that byte. -/

theorem exec_answers_of_format {i : Instr} (h : i.row.format ≠ .wireByte0) (s : State) : ∃ t, exec i s = .next t := by
  cases hb : touchesBuffer i with
  | true =>
    cases i with
    | reset | feedByte | feed => exact ⟨_, rfl⟩
    | frameStart | resyncDrop => exact absurd rfl h
    | _ => cases hb
  | false =>
    obtain ⟨r, -, hr⟩ | ⟨n, hn⟩ | ⟨op, hop⟩ := exec_of_not_touchesBuffer i hb
    · exact ⟨_, hr s⟩
    · exact ⟨_, hn s⟩
    · exact ⟨_, hop s⟩

theorem exec_decodeHead_answers {s : State} {b : Byte} (hlen : ¬ s.buf.length < Config.minBuf)
    (hb : s.buf.head? = some b) : ∃ t, exec (decodeHead b) s = .next t := by
  by_cases hs : b = Config.startByte
  · refine ⟨s.runPassStep (frameStep s.buf), ?_⟩
    rw [decodeHead, if_pos hs, exec, execFrameStart, if_neg hlen, if_pos (hb.trans (congrArg some hs))]
  · refine ⟨s.runPassStep (resyncStep s.buf), ?_⟩
    rw [decodeHead, if_neg hs, exec, execResyncDrop, if_neg hlen, if_pos ⟨hb, hs⟩]

theorem eq_head_of_decode_format {c : Code} {i : Instr} (h : decode c = .ok i) (hi : i.row.format = .wireByte0) :
    ∃ b, c = .head b := by
  cases c with
  | head b => exact ⟨b, rfl⟩
  | request op operands =>
    simp only [decode, decodeRequest] at h
    repeat' split at h
    all_goals cases h <;> cases hi
  | body bytes =>
    simp only [decode, decodeCommand] at h
    repeat' split at h
    all_goals cases h; cases hi
  | entry nodeId tn hi lo age =>
    simp only [decode, decodeEntry] at h
    repeat' split at h
    all_goals cases h; cases hi
  | mode nodeId sel actuatorId pwm =>
    simp only [decode, decodeMode] at h
    repeat' split at h
    all_goals cases h; cases hi

theorem fetch_eq_head {item : PortItem} {s : State} {b : Byte} (h : fetch item s = some (.head b)) :
    ¬ s.buf.length < Config.minBuf ∧ s.buf.head? = some b := by
  cases item with
  | probeHead =>
    rw [fetch] at h
    split at h
    next => cases h
    next hlen => exact ⟨hlen, by simpa using h⟩
  | request | probeBody | probeEntry | probeMode => cases h

/-- The row a step decodes is never run on a head it does not name: a fetched instruction answers. -/
theorem exec_answers_of_fetch {item : PortItem} {s : State} {c : Code} {i : Instr} (hf : fetch item s = some c)
    (hd : decode c = .ok i) : ∃ t, exec i s = .next t := by
  by_cases hi : i.row.format = .wireByte0
  · obtain ⟨b, rfl⟩ := eq_head_of_decode_format hd hi
    cases hd
    obtain ⟨hlen, hb⟩ := fetch_eq_head hf
    exact exec_decodeHead_answers hlen hb
  · exact exec_answers_of_format hi s

/-! ## Steps and runs that answer -/

theorem step_answers_of_decodes {s : State} {item : PortItem} {rest : List PortItem} (hp : s.port = item :: rest)
    (hd : item.decodes) : ∃ t, step s = .next t := by
  obtain ⟨-, hs⟩ | ⟨_, -, -, hs⟩ | ⟨_, _, _, _, -, hf, hc, -, hs⟩ | ⟨op, operands, _, e, hp', he, -⟩ := step_cases s
  · exact ⟨_, hs⟩
  · exact ⟨_, hs⟩
  · exact hs ▸ exec_answers_of_fetch hf hc
  · cases hp'.symm.trans hp
    obtain ⟨i, hi⟩ := hd
    cases hi.symm.trans he

theorem run_succ_of_step {s t : State} (h : step s = .next t) (k : Nat) :
    Host.Core.run Sys2Proof.core (k + 1) s = Host.Core.run Sys2Proof.core k t := by
  have hcore : Sys2Proof.core.step s = .next t := h
  simp only [Host.Core.run, hcore]

/-- A run over the whole port empties it, with one response for each item, where every item decodes. -/
theorem run_serves_port (items : List PortItem) (s : State) (hp : s.port = items)
    (hd : ∀ item ∈ items, item.decodes) :
    ∃ t : State, Host.Core.run Sys2Proof.core items.length s = .next t ∧ t.port = [] ∧
      ∃ rs : List Response, rs.length = items.length ∧ t.responses = s.responses ++ rs := by
  induction items generalizing s with
  | nil => exact ⟨s, rfl, hp, [], rfl, (List.append_nil _).symm⟩
  | cons item rest ih =>
    obtain ⟨hitem, hrest⟩ := List.forall_mem_cons.mp hd
    obtain ⟨u, hu⟩ := step_answers_of_decodes hp hitem
    obtain ⟨hport, r, hr⟩ := step_next_port_responses hp hu
    obtain ⟨t, hrun, ht, rs, hlen, hrs⟩ := ih u hport hrest
    refine ⟨t, (run_succ_of_step hu _).trans hrun, ht, r :: rs, congrArg (· + 1) hlen, ?_⟩
    rw [hrs, hr, List.append_assoc, List.singleton_append]

end Sys2Proof.Machine

open Sys2Proof.Machine

/-- Settles O11, by induction on the port: each step answers the oldest item once. -/
theorem runServesEveryRequest : Obligations.RunServesEveryRequest := by
  intro s hd
  obtain ⟨t, hrun, hport, rs, hlen, hrs⟩ := run_serves_port s.port s rfl hd
  refine ⟨t, hrun, hport, ?_, hrs ▸ List.prefix_append _ _⟩
  rw [hrs, List.length_append, hlen]

/-- Settles O5: the definition of step on an item that has a code and decodes; that i is well formed follows from the
decoding and is not needed. -/
theorem stepRunsTheDecodedInstruction : Obligations.StepRunsTheDecodedInstruction :=
  fun _ _ _ _ _ hp hf hd _ => step_of_fetch_decode hp hf hd

end

section
/-! SUPPORT. The decoders and the encoder are inverse (spec/30_encoding.md R64, R66, R69, R74; spec/10_state.md
R31). -/

namespace Sys2Proof

/-! ## The operand conditions of the rows that a match alone does not describe -/

theorem isKnownCommand_eq_false {c : Byte} :
    isKnownCommand c = false ↔ c ≠ Config.cmdSensorReport ∧ c ≠ Config.cmdActuator := by
  simp [isKnownCommand]

theorem isNamedType_eq_false {t : Nibble} :
    isNamedType t = false ↔ t ≠ Config.typeTemp ∧ t ≠ Config.typeHum ∧ t ≠ Config.typePress := by
  simp [isNamedType, and_assoc]

theorem isMode_eq_false {m : Byte} :
    isMode m = false ↔ m ≠ Config.modeOff ∧ m ≠ Config.modeOn ∧ m ≠ Config.modePwm := by
  simp [isMode, and_assoc]

/-! ## The decoders on what the encoder writes -/

theorem decodeHead_of_ne {b : Byte} (h : b ≠ Config.startByte) : decodeHead b = .resyncDrop b := if_neg h

theorem decodeCommand_of_not_isKnownCommand {command : Byte} (h : isKnownCommand command = false) (nodeId : Byte)
    (payload : List Byte) : decodeCommand (command :: nodeId :: payload) = .cmdUnknown command nodeId payload := by
  obtain ⟨hreport, hactuator⟩ := isKnownCommand_eq_false.mp h
  rw [decodeCommand, if_neg hreport, if_neg hactuator]

theorem decodeCommand_of_length_lt_two {body : List Byte} (h : body.length < 2) :
    decodeCommand body = .shortBody body := by
  match body, h with
  | [], _ => rfl
  | [_], _ => rfl

/-- The decoder of an entry sees the type code and the sensor number as they were packed (R66). -/
theorem decodeEntry_packNibbles (nodeId : Byte) (t n : Nibble) (hi lo age : Byte) :
    decodeEntry nodeId (packNibbles t n) hi lo age =
      if t = Config.typeTemp then .tlvTypeTemp nodeId n hi lo age
      else if t = Config.typeHum then .tlvTypeHum nodeId n hi lo age
      else if t = Config.typePress then .tlvTypePress nodeId n hi lo age
      else .tlvTypeGen nodeId t n hi lo age := by
  simp only [decodeEntry, hiNibble_packNibbles, loNibble_packNibbles]

theorem decodeEntry_of_not_isNamedType {t : Nibble} (h : isNamedType t = false) (nodeId : Byte) (n : Nibble)
    (hi lo age : Byte) : decodeEntry nodeId (packNibbles t n) hi lo age = .tlvTypeGen nodeId t n hi lo age := by
  obtain ⟨htemp, hhum, hpress⟩ := isNamedType_eq_false.mp h
  rw [decodeEntry_packNibbles, if_neg htemp, if_neg hhum, if_neg hpress]

theorem decodeMode_of_not_isMode {m : Byte} (h : isMode m = false) (nodeId actuatorId pwm : Byte) :
    decodeMode nodeId m actuatorId pwm = .modeInvalid nodeId m actuatorId pwm := by
  obtain ⟨hoff, hon, hpwm⟩ := isMode_eq_false.mp h
  rw [decodeMode, if_neg hoff, if_neg hon, if_neg hpwm]

theorem decodeRequest_buildSensorFrame (nodeId : Byte) (entries : List SensorEntry) :
    decodeRequest 0x6#4 (nodeId :: entries.flatMap bytesOfEntry) = .ok (.buildSensorFrame nodeId entries) := by
  have hop : (0x6#4).toNat = 6 := rfl
  simp only [decodeRequest, hop, entriesOfBytes_flatMap_bytesOfEntry]

theorem decode_encode {i : Instr} (h : i.wf = true) : decode (encode i) = .ok i := by
  cases i with
  | buildSensorFrame nodeId entries => exact decodeRequest_buildSensorFrame nodeId entries
  | resyncDrop head => exact congrArg Except.ok (decodeHead_of_ne (by simpa [Instr.wf] using h))
  | cmdUnknown command nodeId payload =>
    exact congrArg Except.ok (decodeCommand_of_not_isKnownCommand (by simpa [Instr.wf] using h) nodeId payload)
  | shortBody body => exact congrArg Except.ok (decodeCommand_of_length_lt_two (by simpa [Instr.wf] using h))
  | tlvTypeTemp | tlvTypeHum | tlvTypePress => exact congrArg Except.ok (decodeEntry_packNibbles ..)
  | tlvTypeGen nodeId t n hi lo age =>
    exact congrArg Except.ok (decodeEntry_of_not_isNamedType (by simpa [Instr.wf] using h) nodeId n hi lo age)
  | modeInvalid nodeId m actuatorId pwm =>
    exact congrArg Except.ok (decodeMode_of_not_isMode (by simpa [Instr.wf] using h) nodeId actuatorId pwm)
  | reset | feedByte | crc8 | frameEncode | frameValidate | decodeBody | buildActuatorFrame | feed | reserved9
  | reservedA | reservedB | reservedC | reservedD | reservedE | reservedF | frameStart | cmdSensorReport
  | cmdActuator | modeOff | modeOn | modePwm => rfl

/-! ## The encoder on what the decoders read -/

theorem encode_decodeHead (b : Byte) : encode (decodeHead b) = .head b := by
  by_cases h : b = Config.startByte
  · subst h; rfl
  · rw [decodeHead_of_ne h, encode]

theorem encode_decodeCommand (bytes : List Byte) : encode (decodeCommand bytes) = .body bytes := by
  match bytes with
  | [] => rfl
  | [_] => rfl
  | command :: nodeId :: payload =>
    rw [decodeCommand]
    split_ifs with hreport hactuator
    · rw [hreport, encode]
    · rw [hactuator, encode]
    · rw [encode]

theorem encode_decodeEntry (nodeId tn hi lo age : Byte) :
    encode (decodeEntry nodeId tn hi lo age) = .entry nodeId tn hi lo age := by
  rw [← packNibbles_hiNibble_loNibble tn, decodeEntry_packNibbles]
  generalize hiNibble tn = t
  split_ifs with htemp hhum hpress
  · rw [htemp, encode]
  · rw [hhum, encode]
  · rw [hpress, encode]
  · rw [encode]

theorem encode_decodeMode (nodeId m actuatorId pwm : Byte) :
    encode (decodeMode nodeId m actuatorId pwm) = .mode nodeId m actuatorId pwm := by
  rw [decodeMode]
  split_ifs with hoff hon hpwm
  · rw [hoff, encode]
  · rw [hon, encode]
  · rw [hpwm, encode]
  · rw [encode]

theorem encode_of_decodeRequest_buildSensorFrame {operands : List Byte} {i : Instr}
    (h : decodeRequest 0x6#4 operands = .ok i) : encode i = .request 0x6#4 operands := by
  have hop : (0x6#4).toNat = 6 := rfl
  simp only [decodeRequest, hop] at h
  split at h
  next nodeId rest =>
    split at h
    next entries he =>
      cases h
      rw [encode, flatMap_bytesOfEntry_of_entriesOfBytes rest entries he]
    next => cases h
  next => cases h

/-- The encoder writes a decoded request back, without the operands that a reserved selector passes over (R75). -/
theorem encode_of_decodeRequest {op : Nibble} {operands : List Byte} {i : Instr}
    (h : decodeRequest op operands = .ok i) :
    encode i = .request op (if op.toNat < 9 then operands else []) := by
  match op, h with
  | ⟨⟨0, _⟩⟩, h => match operands, h with | [], h => cases h; rfl
  | ⟨⟨1, _⟩⟩, h => match operands, h with | [_], h => cases h; rfl
  | ⟨⟨3, _⟩⟩, h => match operands, h with | _ :: _ :: _, h => cases h; rfl
  | ⟨⟨6, _⟩⟩, h => exact encode_of_decodeRequest_buildSensorFrame h
  | ⟨⟨7, _⟩⟩, h => match operands, h with | [_, _, _, _], h => cases h; rfl
  | ⟨⟨2, _⟩⟩, h | ⟨⟨4, _⟩⟩, h | ⟨⟨5, _⟩⟩, h | ⟨⟨8, _⟩⟩, h => cases h; rfl
  | ⟨⟨9, _⟩⟩, h | ⟨⟨10, _⟩⟩, h | ⟨⟨11, _⟩⟩, h | ⟨⟨12, _⟩⟩, h | ⟨⟨13, _⟩⟩, h | ⟨⟨14, _⟩⟩, h | ⟨⟨15, _⟩⟩, h =>
    cases h; rfl
  | ⟨⟨k + 16, hk⟩⟩, _ => omega

theorem encode_of_decode {c : Code} {i : Instr} (h : decode c = .ok i) (hc : c.canonical = true) : encode i = c := by
  cases c with
  | request op operands =>
    rw [encode_of_decodeRequest h]
    split
    next => rfl
    next hop =>
      have : operands = [] := by simpa [Code.canonical, hop] using hc
      rw [this]
  | head b => cases h; exact encode_decodeHead b
  | body bytes => cases h; exact encode_decodeCommand bytes
  | entry nodeId tn hi lo age => cases h; exact encode_decodeEntry nodeId tn hi lo age
  | mode nodeId m actuatorId pwm => cases h; exact encode_decodeMode nodeId m actuatorId pwm

end Sys2Proof

open Sys2Proof

/-- Settles O1, by the row of the instruction: each decoder reads back what the encoder writes for its rows. -/
theorem decodeOfEncode : Obligations.DecodeOfEncode := fun _ h => decode_encode h

/-- Settles O2, by the decoder that reads the code: the encoder inverts each of the five. -/
theorem encodeOfDecode : Obligations.EncodeOfDecode := fun _ _ h hc => encode_of_decode h hc

end

section
/-! SUPPORT. The frames of an instruction and of a step (spec/10_state.md R23, R24, R30, R37; spec/60_exceptions.md
R208): what stays, what only grows, and where a step stops. -/

namespace Sys2Proof.Machine

/-! ## The records of a run only grow -/

/-- Every record of one state stands in another: its fault codes, its responses and traces in front, its refused
mark (R23, R37, R208). -/
def State.RecordsWithin (s t : State) : Prop :=
  (∀ c ∈ s.faults, c ∈ t.faults) ∧ s.responses <+: t.responses ∧ s.traces <+: t.traces ∧
    (s.runRefused = true → t.runRefused = true)

theorem State.recordsWithin_refl (s : State) : s.RecordsWithin s :=
  ⟨fun _ h => h, List.prefix_rfl, List.prefix_rfl, id⟩

theorem State.recordsWithin_respond (s : State) (r : Response) : s.RecordsWithin (s.respond r) :=
  ⟨fun _ h => h, List.prefix_append _ _, List.prefix_rfl, id⟩

theorem State.mem_recordFault_faults_of_mem {s : State} {c : FaultCode} (h : c ∈ s.faults) (d : FaultCode) :
    c ∈ (s.recordFault d).faults := by
  rw [State.recordFault_faults]
  by_cases hd : d ∈ s.faults
  · rwa [if_pos hd]
  · rw [if_neg hd]
    exact List.mem_append_left _ h

theorem State.recordsWithin_raiseBodyOverflow (s : State) (n : Nat) : s.RecordsWithin (s.raiseBodyOverflow n) :=
  ⟨fun _ h => State.mem_recordFault_faults_of_mem h _, List.prefix_append _ _, List.prefix_rfl, id⟩

theorem State.recordsWithin_refuse (s : State) (op : Nibble) : s.RecordsWithin (s.refuse op) :=
  ⟨fun _ h => h, List.prefix_append _ _, List.prefix_rfl, fun _ => rfl⟩

theorem State.recordsWithin_shortWait (s : State) : s.RecordsWithin s.shortWait :=
  ⟨fun _ h => h, List.prefix_append _ _, List.prefix_append _ _, id⟩

theorem exec_next_recordsWithin {i : Instr} {s t : State} (h : exec i s = .next t) : s.RecordsWithin t := by
  cases hb : touchesBuffer i with
  | true =>
    obtain ⟨buf, traces, r, -, htraces, rfl⟩ := exec_of_touchesBuffer hb h
    exact ⟨fun _ h => h, List.prefix_append _ _, htraces, id⟩
  | false =>
    obtain ⟨r, -, hr⟩ | ⟨n, hn⟩ | ⟨op, hop⟩ := exec_of_not_touchesBuffer i hb
    · cases (hr s).symm.trans h; exact s.recordsWithin_respond r
    · cases (hn s).symm.trans h; exact s.recordsWithin_raiseBodyOverflow n
    · cases (hop s).symm.trans h; exact s.recordsWithin_refuse op

theorem step_next_recordsWithin {s t : State} (h : step s = .next t) : s.RecordsWithin t := by
  obtain ⟨-, hs⟩ | ⟨rest, -, -, hs⟩ | ⟨_, rest, _, i, -, -, -, -, hs⟩ | ⟨_, _, _, _, -, -, hs⟩ := step_cases s
  · cases hs.symm.trans h; exact s.recordsWithin_refl
  · cases hs.symm.trans h; exact State.recordsWithin_shortWait { s with port := rest }
  · exact exec_next_recordsWithin (s := { s with port := rest }) (hs.symm.trans h)
  · cases hs.symm.trans h

/-! ## Where a step stops -/

/-- A step answers, or the operand bytes of the oldest request do not decode (log entry 5). -/
theorem step_answers_or_malformed (s : State) :
    (∃ t, step s = .next t) ∨ ∃ op operands rest e, s.port = .request op operands :: rest ∧
      decode (.request op operands) = .error e ∧ step s = .refused (.malformedRequest e) := by
  obtain ⟨-, hs⟩ | ⟨_, -, -, hs⟩ | ⟨_, _, _, _, -, hf, hd, -, hs⟩ | hmalformed := step_cases s
  · exact .inl ⟨_, hs⟩
  · exact .inl ⟨_, hs⟩
  · exact .inl (hs ▸ exec_answers_of_fetch hf hd)
  · exact .inr hmalformed

end Sys2Proof.Machine

open Sys2Proof Sys2Proof.Machine

/-- Settles O7: a step answers or its request is malformed, and then the stop is the refusal of that name. -/
theorem stepStopsOnlyOnMalformedRequest : Obligations.StepStopsOnlyOnMalformedRequest := by
  intro s
  obtain ⟨t, hs⟩ | ⟨op, operands, rest, e, hp, hd, hs⟩ := step_answers_or_malformed s
  · exact ⟨fun _ hf => (by cases hs.symm.trans hf), fun _ hr => (by cases hs.symm.trans hr)⟩
  · refine ⟨fun _ hf => (by cases hs.symm.trans hf), fun r hr => ⟨op, operands, rest, e, hp, hd, ?_⟩⟩
    cases hs.symm.trans hr
    rfl

/-- Settles O9: a step that answers has taken the oldest item and given one response, whatever the item. -/
theorem oneResponsePerRequestInOrder : Obligations.OneResponsePerRequestInOrder :=
  fun _ _ _ _ hp h => step_next_port_responses hp h

/-- Settles O10: every way a step ends keeps the records. -/
theorem recordsOnlyGrow : Obligations.RecordsOnlyGrow := fun _ _ h => step_next_recordsWithin h

/-- Settles O57, by the three ways a row that leaves the buffer ends: a plain response, BODY_OVERFLOW, REFUSED. -/
theorem otherRowsKeepTheBuffer : Obligations.OtherRowsKeepTheBuffer := by
  intro i s t hb h
  obtain ⟨r, -, hr⟩ | ⟨n, hn⟩ | ⟨op, hop⟩ := exec_of_not_touchesBuffer i hb
  · cases (hr s).symm.trans h
    exact ⟨rfl, fun _ => rfl, rfl, rfl, r, rfl, fun _ => rfl, fun _ => rfl⟩
  · cases (hn s).symm.trans h
    exact ⟨rfl, fun _ => rfl, rfl, rfl, .bodyOverflow n, rfl, (nomatch ·), fun _ => rfl⟩
  · cases (hop s).symm.trans h
    exact ⟨rfl, fun _ => rfl, rfl, rfl, .refused op, rfl, fun _ => rfl, (nomatch ·)⟩

/-- Settles O58: a row that may change the buffer writes no other field than the buffer, the traces and the
responses. -/
theorem bufferRowsKeepTheRest : Obligations.BufferRowsKeepTheRest := by
  intro i s t hb h
  obtain ⟨buf, traces, r, -, -, rfl⟩ := exec_of_touchesBuffer hb h
  exact ⟨rfl, rfl, rfl, r, rfl⟩

/-- Settles O13: the empty buffer waits for MIN_BUF bytes, and no fault, no response and no refusal is recorded. -/
theorem resetHasInv : Obligations.ResetHasInv := by
  have stable : Stable State.reset.buf := .inl (by decide)
  have capacity : State.reset.buf.length < Config.rxBufCap := by decide
  have faults : FaultCode.bodyOverflow ∈ State.reset.faults ↔
      State.reset.responses.any Response.isOverflow = true := by decide
  exact ⟨stable, capacity, List.nodup_nil, faults, rfl⟩

end

section
/-! SUPPORT. Which requests commute and which may be repeated (spec/20_memory.md R49, R51): every instruction that
answers is one effect, fixed by the buffer alone, and only the rows that touch the buffer write it. -/

namespace Sys2Proof.Machine

/-! ## The one response of an instruction, with what the response itself records -/

/-- A response is given; BODY_OVERFLOW enters the fault record (R207), REFUSED marks the run (R208). -/
def State.answer (s : State) (r : Response) : State :=
  { s with
    responses := s.responses ++ [r]
    faults := if r.isOverflow then (s.recordFault .bodyOverflow).faults else s.faults
    runRefused := r.isRefused || s.runRefused }

@[simp] theorem State.answer_buf (s : State) (r : Response) : (s.answer r).buf = s.buf := rfl
@[simp] theorem State.answer_port (s : State) (r : Response) : (s.answer r).port = s.port := rfl
@[simp] theorem State.answer_responses (s : State) (r : Response) : (s.answer r).responses = s.responses ++ [r] := rfl
@[simp] theorem State.answer_traces (s : State) (r : Response) : (s.answer r).traces = s.traces := rfl
@[simp] theorem State.answer_runRefused (s : State) (r : Response) :
    (s.answer r).runRefused = (r.isRefused || s.runRefused) := rfl

theorem State.answer_faults (s : State) (r : Response) :
    (s.answer r).faults = if r.isOverflow then (s.recordFault .bodyOverflow).faults else s.faults := rfl

theorem State.mem_recordFault_faults_self (s : State) (c : FaultCode) : c ∈ (s.recordFault c).faults := by
  rw [State.recordFault_faults]
  by_cases h : c ∈ s.faults
  · rwa [if_pos h]
  · rw [if_neg h]
    exact List.mem_append_right _ (List.mem_singleton_self c)

/-- BODY_OVERFLOW is the only code, so any code of the record is it (R207). -/
@[simp] theorem State.mem_answer_faults (s : State) (r : Response) (c : FaultCode) :
    c ∈ (s.answer r).faults ↔ r.isOverflow = true ∨ c ∈ s.faults := by
  rw [State.answer_faults]
  by_cases h : r.isOverflow = true
  · rw [if_pos h]
    exact iff_of_true (s.mem_recordFault_faults_self c) (.inl h)
  · rw [if_neg h, or_iff_right h]

theorem State.answer_of_plain {r : Response} (h : r.Plain) (s : State) : s.answer r = s.respond r := by
  obtain ⟨hoverflow, hrefused⟩ := h
  simp [State.answer, State.respond, hoverflow, hrefused]

/-- The same answer again adds its response to the sequence and nothing else: the record is a set, the mark stays
set (R23, R208). -/
theorem State.answer_answer (s : State) (r : Response) :
    (s.answer r).answer r = { s.answer r with responses := (s.answer r).responses ++ [r] } := by
  have faults : ((s.answer r).answer r).faults = (s.answer r).faults := by
    rw [State.answer_faults]
    split
    next h => rw [State.recordFault_faults, if_pos ((s.mem_answer_faults r _).mpr (.inl h))]
    next => rfl
  have mark : ((s.answer r).answer r).runRefused = (s.answer r).runRefused := by simp
  calc (s.answer r).answer r
      = { s.answer r with
          responses := (s.answer r).responses ++ [r]
          faults := ((s.answer r).answer r).faults
          runRefused := ((s.answer r).answer r).runRefused } := rfl
    _ = { s.answer r with responses := (s.answer r).responses ++ [r] } := by rw [faults, mark]

/-- A row that leaves the buffer gives one answer, the same from every state (R49). -/
theorem exec_eq_answer {i : Instr} (h : touchesBuffer i = false) :
    ∃ r, ∀ s, exec i s = .next (s.answer r) := by
  obtain ⟨r, hplain, hr⟩ | ⟨n, hn⟩ | ⟨op, hop⟩ := exec_of_not_touchesBuffer i h
  · exact ⟨r, fun s => by rw [hr, State.answer_of_plain hplain]⟩
  · exact ⟨.bodyOverflow n, hn⟩
  · exact ⟨.refused op, hop⟩

theorem touchesBuffer_of_readsOnlyOperands {i : Instr} (h : readsOnlyOperands i) : touchesBuffer i = false := by
  obtain ⟨_, rfl⟩ | ⟨_, _, _, rfl⟩ | ⟨_, rfl⟩ | ⟨_, rfl⟩ | ⟨_, _, rfl⟩ | ⟨_, _, _, _, rfl⟩ := h <;> rfl

/-! ## The effect of an instruction is fixed by the buffer -/

/-- The buffer written, passes recorded, and one answer given. -/
def State.effect (s : State) (buf : List Byte) (passes : List (List PassAction)) (r : Response) : State :=
  ({ s with buf := buf, traces := s.traces ++ passes } : State).answer r

/-- An instruction answers with the same effect from every state that holds this buffer. -/
def HasEffectOn (i : Instr) (buf : List Byte) : Prop :=
  ∃ (buf' : List Byte) (passes : List (List PassAction)) (r : Response),
    ∀ s : State, s.buf = buf → exec i s = .next (s.effect buf' passes r)

theorem hasEffectOn_of_answer {i : Instr} {r : Response} (h : ∀ s, exec i s = .next (s.answer r)) (buf : List Byte) :
    HasEffectOn i buf := by
  refine ⟨buf, [], r, fun s hs => ?_⟩
  rw [h s, State.effect, List.append_nil, ← hs]

theorem hasEffectOn_of_feedChunk {i : Instr} {chunk : List Byte} (h : ∀ s, exec i s = .next (s.feedChunk chunk))
    (buf : List Byte) : HasEffectOn i buf := by
  let r := pass (append buf chunk)
  exact ⟨r.buf, [r.trace], .fed r.bodies (readingsOf r.bodies), fun s hs => by subst hs; exact h s⟩

theorem hasEffectOn_of_runPassStep {i : Instr} {buf : List Byte} {p : PassStep}
    (h : ∀ s : State, s.buf = buf → exec i s = .next (s.runPassStep p)) : HasEffectOn i buf := by
  cases p with
  | stop a => exact ⟨buf, [[a]], .fed [] [], fun s hs => by subst hs; exact h s rfl⟩
  | go a rest accepted => exact ⟨rest, [[a]], .fed _ _, h⟩

/-- A head row, where it answers, runs one iteration of the pass that the buffer alone chooses (R131, R132). -/
theorem hasEffectOn_of_head_row {i : Instr} {s t : State} (hi : i.row.format = .wireByte0)
    (h : exec i s = .next t) : HasEffectOn i s.buf := by
  by_cases hlen : s.buf.length < Config.minBuf
  · refine hasEffectOn_of_runPassStep (p := .stop .waitShort) fun v hv => ?_
    cases i with
    | frameStart => exact if_pos (hv ▸ hlen)
    | resyncDrop => exact if_pos (hv ▸ hlen)
    | _ => cases hi
  · cases i with
    | frameStart =>
      rw [exec, execFrameStart, if_neg hlen] at h
      split at h
      next hhead =>
        refine hasEffectOn_of_runPassStep (p := frameStep s.buf) fun v hv => ?_
        rw [exec, execFrameStart, hv, if_neg hlen, if_pos hhead]
      next => cases h
    | resyncDrop b =>
      rw [exec, execResyncDrop, if_neg hlen] at h
      split at h
      next hhead =>
        refine hasEffectOn_of_runPassStep (p := resyncStep s.buf) fun v hv => ?_
        rw [exec, execResyncDrop, hv, if_neg hlen, if_pos hhead]
      next => cases h
    | _ => cases hi

/-- No instruction reads more of the state than the buffer: where one answers, its effect is that of every state with
the same buffer (R20, R24, R49). -/
theorem exec_next_hasEffectOn {i : Instr} {s t : State} (h : exec i s = .next t) : HasEffectOn i s.buf := by
  cases hb : touchesBuffer i with
  | false =>
    obtain ⟨r, hr⟩ := exec_eq_answer hb
    exact hasEffectOn_of_answer hr s.buf
  | true =>
    cases i with
    | reset => exact ⟨[], [], .done, fun v _ => by rw [State.effect, List.append_nil]; rfl⟩
    | feedByte | feed => exact hasEffectOn_of_feedChunk (fun _ => rfl) s.buf
    | frameStart | resyncDrop => exact hasEffectOn_of_head_row rfl h
    | _ => cases hb

/-- An answer leaves the buffer, so an instruction has the same effect after it as before it. -/
theorem exec_answer_of_exec {j : Instr} {s t : State} (h : exec j s = .next t) (ri : Response) :
    ∃ buf passes rj, t = s.effect buf passes rj ∧
      exec j (s.answer ri) = .next ((s.answer ri).effect buf passes rj) := by
  obtain ⟨buf, passes, rj, hj⟩ := exec_next_hasEffectOn h
  refine ⟨buf, passes, rj, ?_, hj (s.answer ri) rfl⟩
  cases h.symm.trans (hj s rfl)
  rfl

end Sys2Proof.Machine

open Sys2Proof Sys2Proof.Machine

/-- Settles O59: a pure request gives the same answer from every state, and the other request, which reads at most
the buffer, has the same effect before that answer and after it. -/
theorem pureRequestsCommute : Obligations.PureRequestsCommute := by
  intro i j s hi t hj
  obtain ⟨ri, hri⟩ := exec_eq_answer (touchesBuffer_of_readsOnlyOperands hi)
  obtain ⟨buf, passes, rj, rfl, hw⟩ := exec_answer_of_exec hj ri
  refine ⟨_, _, _, ri, rj, hri s, hri _, hw, ?_, ?_, rfl, rfl, ?_, rfl, fun c => ?_⟩
  · simp [State.effect]
  · simp [State.effect]
  · simp [State.effect, Bool.or_left_comm]
  · simp [State.effect, or_left_comm]

/-- Settles O60: the answer of a pure request is the same from every state, and given again it only adds its
response. -/
theorem pureRequestsAreIdempotent : Obligations.PureRequestsAreIdempotent := by
  intro i s hi
  obtain ⟨r, hr⟩ := exec_eq_answer (touchesBuffer_of_readsOnlyOperands hi)
  exact ⟨s.answer r, r, hr s, rfl, (hr _).trans (congrArg _ (s.answer_answer r))⟩

end

section
/-! SUPPORT. The rows of spec/opcode_table.json are disjoint and the decoders read them (spec/30_encoding.md R64, R66,
R69, R74; spec/42_reassembler.md R132; spec/43_tlv_parser.md R160, R161): the row a code lies in is the row of the
instruction it decodes to. -/

namespace Sys2Proof

/-! ## What a row admits, as a statement about the field it reads -/

@[simp] theorem RowPattern.admitsField_masked (mask value v : Byte) :
    (RowPattern.masked mask value).admitsField v = true ↔ v &&& mask = value := by
  simp [RowPattern.admitsField]

@[simp] theorem RowPattern.admitsField_range (low high : Nat) (v : Byte) :
    (RowPattern.range low high).admitsField v = true ↔ low ≤ v.toNat ∧ v.toNat ≤ high := by
  simp [RowPattern.admitsField]

@[simp] theorem RowPattern.admitsField_otherThan (values : List Byte) (v : Byte) :
    (RowPattern.otherThan values).admitsField v = true ↔ v ∉ values := by
  simp [RowPattern.admitsField]

theorem TableRow.admits_request {r : TableRow} {op : Nibble} {operands : List Byte} :
    r.admits (.request op operands) = true ↔ r.format = .ifaceOp ∧ r.pattern.admitsField (op.setWidth 8) = true := by
  simp [TableRow.admits]

theorem TableRow.admits_head {r : TableRow} {b : Byte} :
    r.admits (.head b) = true ↔ r.format = .wireByte0 ∧ r.pattern.admitsField b = true := by
  simp [TableRow.admits]

theorem TableRow.admits_body {r : TableRow} {command nodeId : Byte} {payload : List Byte} :
    r.admits (.body (command :: nodeId :: payload)) = true ↔
      r.format = .wireBody0 ∧ r.pattern.admitsField command = true := by
  simp [TableRow.admits]

theorem TableRow.admits_entry {r : TableRow} {nodeId tn hi lo age : Byte} :
    r.admits (.entry nodeId tn hi lo age) = true ↔
      r.format = .tlvTypeAndNumber ∧ r.pattern.admitsField tn = true := by
  simp [TableRow.admits]

theorem TableRow.admits_mode {r : TableRow} {nodeId m actuatorId pwm : Byte} :
    r.admits (.mode nodeId m actuatorId pwm) = true ↔
      r.format = .actuatorMode ∧ r.pattern.admitsField m = true := by
  simp [TableRow.admits]

theorem TableRow.format_of_admits_short {r : TableRow} {body : List Byte} (hb : body.length < 2)
    (h : r.admits (.body body) = true) : r.format = .wireBody := by
  simp only [TableRow.admits] at h
  split at h
  next => simp at hb
  next =>
    split at h
    next => rfl
    next => cases h

theorem and_fullMask (b : Byte) : b &&& 0xFF#8 = b := BitVec.and_allOnes

/-- A mask of all bits reads the whole field. -/
theorem eq_of_admitsField_fullMask {value v : Byte} (h : (RowPattern.masked 0xFF#8 value).admitsField v = true) :
    v = value :=
  (and_fullMask v).symm.trans ((RowPattern.admitsField_masked ..).mp h)

theorem hiNibble_and_highMask : ∀ b : Byte, hiNibble (b &&& 0xF0#8) = hiNibble b := by decide

/-- A mask of the high bits reads the type code, whatever the sensor number (R66). -/
theorem eq_hiNibble_of_admitsField_highMask {value : Byte} {t n : Nibble}
    (h : (RowPattern.masked 0xF0#8 value).admitsField (packNibbles t n) = true) : t = hiNibble value := by
  rw [← (RowPattern.admitsField_masked ..).mp h, hiNibble_and_highMask, hiNibble_packNibbles]

theorem isNamedType_eq_false_of_range {t n : Nibble} (h : 0x30 ≤ (packNibbles t n).toNat) : isNamedType t = false := by
  revert t n; decide

theorem isMode_eq_false_of_range {m : Byte} (h : 0x03 ≤ m.toNat) : isMode m = false := by
  revert m; decide

/-! ## The one row that admits a code of each format -/

/-- The rows of `iface.op` all read the same mask, so the selector fixes the row (R74). -/
theorem row_eq_of_admits_request {j : Instr} {op : Nibble} {operands : List Byte}
    (h : j.row.admits (.request op operands) = true) :
    j.row = ⟨.ifaceOp, .masked 0x0F#8 (op.setWidth 8 &&& 0x0F#8)⟩ := by
  obtain ⟨hformat, hfield⟩ := TableRow.admits_request.mp h
  cases j with
  | reset | feedByte | crc8 | frameEncode | frameValidate | decodeBody | buildSensorFrame | buildActuatorFrame | feed
  | reserved9 | reservedA | reservedB | reservedC | reservedD | reservedE | reservedF =>
    rw [(RowPattern.admitsField_masked ..).mp hfield]; rfl
  | _ => cases hformat

theorem row_eq_decodeHead {j : Instr} {b : Byte} (h : j.row.admits (.head b) = true) :
    j.row = (decodeHead b).row := by
  obtain ⟨hformat, hfield⟩ := TableRow.admits_head.mp h
  cases j with
  | frameStart =>
    have hb : b = Config.startByte := eq_of_admitsField_fullMask hfield
    rw [hb]; rfl
  | resyncDrop =>
    have hb : b ≠ Config.startByte := by simpa [Instr.row, Config.startByte] using hfield
    rw [decodeHead_of_ne hb]; rfl
  | _ => cases hformat

/-- SHORT_BODY is the only row of `wire.body`, and the command rows read byte 0 of a longer body (R160, R161). -/
theorem row_eq_decodeCommand {j : Instr} {body : List Byte} (h : j.row.admits (.body body) = true) :
    j.row = (decodeCommand body).row := by
  by_cases hshort : body.length < 2
  · have hformat := TableRow.format_of_admits_short hshort h
    rw [decodeCommand_of_length_lt_two hshort]
    cases j with
    | shortBody => rfl
    | _ => cases hformat
  · match body, hshort with
    | [], hlong => exact absurd Nat.zero_lt_two hlong
    | [_], hlong => exact absurd Nat.one_lt_two hlong
    | command :: nodeId :: payload, _ =>
      obtain ⟨hformat, hfield⟩ := TableRow.admits_body.mp h
      cases j with
      | cmdSensorReport =>
        have hc : command = Config.cmdSensorReport := eq_of_admitsField_fullMask hfield
        rw [hc]; rfl
      | cmdActuator =>
        have hc : command = Config.cmdActuator := eq_of_admitsField_fullMask hfield
        rw [hc]; rfl
      | cmdUnknown =>
        have hc : command ≠ Config.cmdSensorReport ∧ command ≠ Config.cmdActuator := by
          simpa [Instr.row, Config.cmdSensorReport, Config.cmdActuator] using hfield
        rw [decodeCommand_of_not_isKnownCommand (isKnownCommand_eq_false.mpr hc)]; rfl
      | _ => cases hformat

theorem row_eq_decodeEntry {j : Instr} {nodeId tn hi lo age : Byte}
    (h : j.row.admits (.entry nodeId tn hi lo age) = true) : j.row = (decodeEntry nodeId tn hi lo age).row := by
  rw [← packNibbles_hiNibble_loNibble tn] at h ⊢
  generalize hiNibble tn = t, loNibble tn = n at h ⊢
  obtain ⟨hformat, hfield⟩ := TableRow.admits_entry.mp h
  cases j with
  | tlvTypeTemp | tlvTypeHum | tlvTypePress =>
    have ht := eq_hiNibble_of_admitsField_highMask hfield
    rw [decodeEntry_packNibbles, ht]; rfl
  | tlvTypeGen =>
    obtain ⟨hlow, -⟩ := (RowPattern.admitsField_range ..).mp hfield
    rw [decodeEntry_of_not_isNamedType (isNamedType_eq_false_of_range hlow)]; rfl
  | _ => cases hformat

theorem row_eq_decodeMode {j : Instr} {nodeId m actuatorId pwm : Byte}
    (h : j.row.admits (.mode nodeId m actuatorId pwm) = true) :
    j.row = (decodeMode nodeId m actuatorId pwm).row := by
  obtain ⟨hformat, hfield⟩ := TableRow.admits_mode.mp h
  cases j with
  | modeOff | modeOn | modePwm =>
    rw [eq_of_admitsField_fullMask hfield]; rfl
  | modeInvalid =>
    obtain ⟨hlow, -⟩ := (RowPattern.admitsField_range ..).mp hfield
    rw [decodeMode_of_not_isMode (isMode_eq_false_of_range hlow)]; rfl
  | _ => cases hformat

/-! ## The row of what the decoder answers -/

open Laws in
theorem row_admits_encode {i : Instr} (h : i.wf = true) : i.row.admits (encode i) = true := by
  cases i with
  | resyncDrop head => exact RowMatch.resyncDrop head h
  | cmdUnknown command nodeId payload => exact RowMatch.cmdUnknown command nodeId payload h
  | shortBody body => exact RowMatch.shortBody body h
  | tlvTypeTemp nodeId n hi lo age => exact RowMatch.tlvTypeTemp nodeId n hi lo age h
  | tlvTypeHum nodeId n hi lo age => exact RowMatch.tlvTypeHum nodeId n hi lo age h
  | tlvTypePress nodeId n hi lo age => exact RowMatch.tlvTypePress nodeId n hi lo age h
  | tlvTypeGen nodeId t n hi lo age => exact RowMatch.tlvTypeGen nodeId t n hi lo age h
  | modeInvalid nodeId m actuatorId pwm => exact RowMatch.modeInvalid nodeId m actuatorId pwm h
  | reset | feedByte | crc8 | frameEncode | frameValidate | decodeBody | buildSensorFrame | buildActuatorFrame | feed
  | reserved9 | reservedA | reservedB | reservedC | reservedD | reservedE | reservedF | frameStart | cmdSensorReport
  | cmdActuator | modeOff | modeOn | modePwm => rfl

/-- A decoded code lies in the row of its instruction: the encoder writes the code back but for operands that a
reserved selector passes over, and no row of `iface.op` reads operands. -/
theorem row_admits_of_decode {c : Code} {i : Instr} (h : decode c = .ok i) : i.row.admits c = true := by
  have henc := row_admits_encode (Machine.decode_wf h)
  cases c with
  | request op operands =>
    rw [encode_of_decodeRequest h] at henc
    exact TableRow.admits_request.mpr (TableRow.admits_request.mp henc)
  | head | body | entry | mode => rwa [encode_of_decode h rfl] at henc

/-- No other row of the table admits a code that decodes. -/
theorem row_eq_of_admits_of_decode {c : Code} {i j : Instr} (h : decode c = .ok i) (hj : j.row.admits c = true) :
    j.row = i.row := by
  cases c with
  | request op operands =>
    exact (row_eq_of_admits_request hj).trans (row_eq_of_admits_request (row_admits_of_decode h)).symm
  | head b => cases h; exact row_eq_decodeHead hj
  | body bytes => cases h; exact row_eq_decodeCommand hj
  | entry nodeId tn hi lo age => cases h; exact row_eq_decodeEntry hj
  | mode nodeId m actuatorId pwm => cases h; exact row_eq_decodeMode hj

end Sys2Proof

open Sys2Proof Sys2Proof.Machine

/-- Settles O3, by the format of the code: each decoder chooses the one row of its format that admits the field. -/
theorem decodeAnswersTheOnlyTableRow : Obligations.DecodeAnswersTheOnlyTableRow :=
  fun _ _ h => ⟨decode_wf h, row_admits_of_decode h, fun _ => row_eq_of_admits_of_decode h⟩

/-- Settles O4: the decoder computes each of the sample codes. -/
theorem sampleCodesDecode : Obligations.SampleCodesDecode := ⟨rfl, rfl, rfl, rfl, rfl, rfl⟩

end

section
/-! SUPPORT. The reserved rows (spec/30_encoding.md R75; spec/60_exceptions.md R208, R212) and the actuator builder
with its mode rows (spec/30_encoding.md R63, R69; spec/44_transmit_encoders.md R182 to R184). -/

namespace Sys2Proof.Machine

/-! ## Reserved selectors -/

theorem State.refuse_eq (s : State) (op : Nibble) :
    s.refuse op = { s with responses := s.responses ++ [.refused op], runRefused := true } := rfl

/-- A reserved selector decodes, whatever follows it, to a row that refuses with that selector (R75). -/
theorem decode_reserved_refuses {op : Nibble} (h : 9 ≤ op.toNat) (operands : List Byte) :
    ∃ i, decode (.request op operands) = .ok i ∧ ∀ s, exec i s = .next (s.refuse op) := by
  match op, h with
  | ⟨⟨9, _⟩⟩, _ => exact ⟨.reserved9, rfl, fun _ => rfl⟩
  | ⟨⟨10, _⟩⟩, _ => exact ⟨.reservedA, rfl, fun _ => rfl⟩
  | ⟨⟨11, _⟩⟩, _ => exact ⟨.reservedB, rfl, fun _ => rfl⟩
  | ⟨⟨12, _⟩⟩, _ => exact ⟨.reservedC, rfl, fun _ => rfl⟩
  | ⟨⟨13, _⟩⟩, _ => exact ⟨.reservedD, rfl, fun _ => rfl⟩
  | ⟨⟨14, _⟩⟩, _ => exact ⟨.reservedE, rfl, fun _ => rfl⟩
  | ⟨⟨15, _⟩⟩, _ => exact ⟨.reservedF, rfl, fun _ => rfl⟩
  | ⟨⟨k + 16, hk⟩⟩, _ => omega

/-! ## The actuator builder and its modes -/

theorem exec_buildActuatorFrame_of_mode {m : Byte} (h : m = Config.modeOff ∨ m = Config.modeOn ∨ m = Config.modePwm)
    (nodeId actuatorId pwm : Byte) (s : State) :
    exec (.buildActuatorFrame nodeId actuatorId m pwm) s = .next (s.answerActuator m nodeId actuatorId pwm) :=
  if_pos h

theorem exec_buildActuatorFrame_of_not_mode {m : Byte} (hoff : m ≠ Config.modeOff) (hon : m ≠ Config.modeOn)
    (hpwm : m ≠ Config.modePwm) (nodeId actuatorId pwm : Byte) (s : State) :
    exec (.buildActuatorFrame nodeId actuatorId m pwm) s = .next (s.raiseInvalidMode m) :=
  if_neg (not_or.mpr ⟨hoff, not_or.mpr ⟨hon, hpwm⟩⟩)

/-- The masks of R184: the actuator id keeps bits 3 to 0 with zeros above, the PWM value all its bits. -/
theorem actuatorPayload_eq (m actuatorId pwm : Byte) :
    actuatorPayload m actuatorId pwm = [m, (actuatorId.extractLsb' 0 4).setWidth 8, pwm] := by
  have hid : ∀ a : Byte, a &&& 0x0F#8 = (a.extractLsb' 0 4).setWidth 8 := by decide
  rw [actuatorPayload, hid, and_fullMask]

/-- An actuator command always fits its frame, so the builder never raises BODY_OVERFLOW (R182). -/
theorem answerActuator_eq (s : State) (m nodeId actuatorId pwm : Byte) :
    s.answerActuator m nodeId actuatorId pwm =
      s.respond (.frame (frameOf (Config.cmdActuator :: nodeId :: actuatorPayload m actuatorId pwm))) := by
  have hfits : (actuatorPayload m actuatorId pwm).length ≤ Config.maxPayload := by
    rw [actuatorPayload]; exact Nat.le_add_left 3 250
  rw [State.answerActuator, actuatorFrame, encodeFrame_ok hfits, State.answerFrame]

/-- Bytes followed by their checksum have checksum zero (R103). -/
theorem crc8_append_crc8 (data : List Byte) : crc8 (data ++ [crc8 data]) = 0x00#8 := by
  rw [crc8_append, List.foldl_cons, List.foldl_nil, crcByte_self]

end Sys2Proof.Machine

open Sys2Proof Sys2Proof.Machine

/-- Settles O8: the selector alone decodes to a reserved row, which refuses in the state with the request taken. -/
theorem reservedRequestIsRefused : Obligations.ReservedRequestIsRefused := by
  intro s op operands rest hp hop
  obtain ⟨i, hd, hexec⟩ := decode_reserved_refuses hop operands
  refine ⟨?_, rfl⟩
  rw [step_of_fetch_decode hp rfl hd, hexec, State.refuse_eq]

/-- Settles O16: every reserved row is the refusal of its selector. -/
theorem reservedRowsAnswerRefused : Obligations.ReservedRowsAnswerRefused := by
  intro s
  simp only [← State.refuse_eq]
  exact ⟨rfl, rfl, rfl, rfl, rfl, rfl, rfl⟩

/-- Settles O54: the frame of R110 around the masked payload; its last byte is the checksum of the bytes after the
start byte. -/
theorem buildActuatorFrameAnswersTheFrame : Obligations.BuildActuatorFrameAnswersTheFrame := by
  intro nodeId actuatorId m pwm s hm
  refine ⟨_, ?_, crc8_append_crc8 [0x05#8, 0x20#8, nodeId, m, (actuatorId.extractLsb' 0 4).setWidth 8, pwm]⟩
  rw [exec_buildActuatorFrame_of_mode hm, answerActuator_eq, actuatorPayload_eq]
  rfl

/-- Settles O56: the builder's mode test, at each of its three bytes and at a byte that passes none. -/
theorem modeRowsAreBuilderCases : Obligations.ModeRowsAreBuilderCases := by
  intro nodeId actuatorId m pwm s
  refine ⟨⟨_, rfl, exec_buildActuatorFrame_of_mode (.inl rfl) ..⟩,
    ⟨_, rfl, exec_buildActuatorFrame_of_mode (.inr (.inl rfl)) ..⟩,
    ⟨_, rfl, exec_buildActuatorFrame_of_mode (.inr (.inr rfl)) ..⟩, fun hoff hon hpwm => ⟨rfl, ?_⟩⟩
  exact exec_buildActuatorFrame_of_not_mode hoff hon hpwm nodeId actuatorId pwm s

end

section
/-! SUPPORT. CRC8 as a fold of byte steps (spec/40_crc8.md R101 to R105): its bitwise and table forms, its laws, and
what one changed byte does to it and to a frame. -/

namespace Sys2Proof.Machine

/-! ## The bitwise and the table form -/

/-- The fold on bytes is the procedure of R101 on numbers, as each byte step is (R101). -/
theorem crcBitwise_eq_toNat_crc8 (data : List Byte) : crcBitwise data = (crc8 data).toNat := by
  rw [crcBitwise, crc8]
  exact List.foldl_hom BitVec.toNat (fun c b => (crcByte_toNat c b).symm) (init := Config.crcInit)

/-- A byte step is the table's entry at the register XOR the byte (R102). -/
theorem crc8_singleton_xor (crc b : Byte) : crc8 [crc ^^^ b] = crcByte crc b := by
  rw [crc8_singleton, crcByte_eq, BitVec.zero_xor, ← crcByte_eq]

theorem crc8Table_eq_crc8 (data : List Byte) : crc8Table data = crc8 data := by
  simp only [crc8Table, crc8_singleton_xor]
  rw [crc8]

/-! ## The laws of R103 -/

theorem crc8_zero_cons (data : List Byte) : crc8 (0x00#8 :: data) = crc8 data :=
  congrArg (data.foldl crcByte) crcByte_zero_zero

/-- The fold is linear in the register and the bytes together, as each byte step is. -/
theorem foldl_crcByte_xor {a b : List Byte} (h : a.length = b.length) (c d : Byte) :
    (List.zipWith (fun x y => x ^^^ y) a b).foldl crcByte (c ^^^ d) =
      a.foldl crcByte c ^^^ b.foldl crcByte d := by
  induction a generalizing b c d with
  | nil =>
    obtain rfl := List.length_eq_zero_iff.mp h.symm
    rfl
  | cons x a ih =>
    obtain ⟨y, b, rfl⟩ := List.exists_cons_of_length_eq_add_one h.symm
    simp only [List.zipWith_cons_cons, List.foldl_cons, crcByte_xor]
    exact ih (Nat.succ.inj h) _ _

theorem crc8_zipWith_xor {a b : List Byte} (h : a.length = b.length) :
    crc8 (List.zipWith (fun x y => x ^^^ y) a b) = crc8 a ^^^ crc8 b :=
  foldl_crcByte_xor h Config.crcInit Config.crcInit

/-! ## One changed byte -/

/-- Equal checksums of two sequences alike but for one byte: the bytes after it are undone, then the byte's own step,
and the byte is the same. -/
theorem eq_of_crc8_append_cons_eq {front back : List Byte} {x y : Byte}
    (h : crc8 (front ++ x :: back) = crc8 (front ++ y :: back)) : x = y := by
  simp only [crc8_append, List.foldl_cons] at h
  exact BitVec.xor_right_inj _ |>.mp (crcByte_inj (foldl_crcByte_injective back h))

theorem crc8_set_ne {data : List Byte} {k : Nat} {v : Byte} (hk : k < data.length) (hv : data[k]? ≠ some v) :
    crc8 (data.set k v) ≠ crc8 data := by
  intro h
  have hdata : data.take k ++ data[k] :: data.drop (k + 1) = data := by
    rw [List.cons_getElem_drop_succ, List.take_append_drop]
  rw [List.set_eq_take_append_cons_drop, if_pos hk] at h
  have hvk : v = data[k] := eq_of_crc8_append_cons_eq (h.trans (congrArg crc8 hdata.symm))
  exact hv (by rw [hvk, List.getElem?_eq_getElem hk])

/-- A candidate of the right shape whose bytes after the start byte have a checksum other than zero is CRC_FAIL: a
matching last byte would make it zero (R103, R116). -/
theorem validate_of_crc8_ne_zero {L : Byte} {rest : List Byte} (hlen : rest.length = L.toNat + 1)
    (h : crc8 (L :: rest) ≠ 0x00#8) : validate (Config.startByte :: L :: rest) = .crcFail := by
  obtain ⟨body, x, rfl⟩ := (List.eq_nil_or_concat' rest).resolve_left (List.ne_nil_of_length_eq_add_one hlen)
  have hbody : body.length = L.toNat := by simpa using hlen
  rw [validate_of_shape hbody, if_neg]
  rintro rfl
  exact h (crc8_append_crc8 (L :: body))

/-- Any change of one body or checksum byte leaves the shape of a frame and breaks its zero checksum (R104). -/
theorem validate_frameOf_set {body : List Byte} {k : Nat} {v : Byte} (hbody : body.length ≤ Config.maxBody)
    (h2 : 2 ≤ k) (hk : k < (frameOf body).length) (hv : (frameOf body)[k]? ≠ some v) :
    validate ((frameOf body).set k v) = .crcFail := by
  obtain ⟨j, rfl⟩ := Nat.exists_eq_add_of_le' h2
  have hne := crc8_set_ne (data := lengthByte body :: (body ++ [crc8 (lengthByte body :: body)])) (k := j + 1)
    (Nat.lt_of_succ_lt_succ hk) hv
  refine validate_of_crc8_ne_zero ?_ (ne_of_ne_of_eq hne (crc8_append_crc8 (lengthByte body :: body)))
  rw [List.length_set, List.length_append, List.length_singleton, lengthByte_toNat hbody]

end Sys2Proof.Machine

open Sys2Proof Sys2Proof.Machine

/-- Settles O19: the register after the changed byte keeps the difference to the end, and a frame's checksum of zero
is lost with it. -/
theorem crc8DetectsEverySingleByteError : Obligations.Crc8DetectsEverySingleByteError :=
  ⟨fun _ _ _ _ hxy h => hxy (eq_of_crc8_append_cons_eq h), fun _ _ _ s hbody h2 hk hv =>
    congrArg (fun r => Host.Outcome.next (s.respond (.validated r))) (validate_frameOf_set hbody h2 hk hv)⟩

/-- Settles O17: the model's fold is both the fold of R101 on numbers and the fold of R102 over the table. -/
theorem crc8AnswersTheTableForm : Obligations.Crc8AnswersTheTableForm :=
  fun data _ => ⟨crc8 data, rfl, (crcBitwise_eq_toNat_crc8 data).symm, (crc8Table_eq_crc8 data).symm⟩

/-- Settles O18: the byte step maps zero to zero, a register XORed with itself to zero, and XOR to XOR. -/
theorem crc8Laws : Obligations.Crc8Laws :=
  ⟨crc8_nil, crc8_zero_cons, crc8_append_crc8, fun _ _ h => crc8_zipWith_xor h⟩

/-- Settles O20: by the kernel's evaluation of the nine byte steps. -/
theorem crc8CheckValue : Obligations.Crc8CheckValue := by
  unfold Obligations.Crc8CheckValue
  decide +kernel

end

section
/-! SUPPORT. The frame codec's two requests (spec/41_frame_codec.md R110 to R118): the layout of a frame, what the
fault leaves of the record, and the form of a candidate behind each result of VALIDATE. -/

namespace Sys2Proof.Machine

/-! ## The fault record after BODY_OVERFLOW -/

theorem State.mem_recordFault_faults (s : State) (c d : FaultCode) :
    d ∈ (s.recordFault c).faults ↔ d = c ∨ d ∈ s.faults := by
  rw [State.recordFault_faults]
  by_cases h : c ∈ s.faults
  · rw [if_pos h, or_iff_right_of_imp]
    rintro rfl
    exact h
  · rw [if_neg h, List.mem_append, List.mem_singleton, or_comm]

theorem State.nodup_recordFault_faults {s : State} (h : s.faults.Nodup) (c : FaultCode) :
    (s.recordFault c).faults.Nodup := by
  rw [State.recordFault_faults]
  by_cases hc : c ∈ s.faults
  · rwa [if_pos hc]
  · rw [if_neg hc, ← List.concat_eq_append]
    exact h.concat hc

/-! ## FRAME_ENCODE -/

theorem exec_frameEncode_of_le {payload : List Byte} (h : payload.length ≤ Config.maxPayload) (command nodeId : Byte)
    (s : State) :
    exec (.frameEncode command nodeId payload) s =
      .next (s.respond (.frame (frameOf (command :: nodeId :: payload)))) := by
  rw [exec, execFrameEncode, encodeFrame_ok h, State.answerFrame]

theorem exec_frameEncode_of_lt {payload : List Byte} (h : Config.maxPayload < payload.length) (command nodeId : Byte)
    (s : State) :
    exec (.frameEncode command nodeId payload) s = .next (s.raiseBodyOverflow (payload.length + 2)) := by
  rw [exec, execFrameEncode, encodeFrame_error h, State.answerFrame]

/-- The body of a payload that fits its frame fits its length byte (R60). -/
theorem body_length_le_maxBody {payload : List Byte} (h : payload.length ≤ Config.maxPayload) (command nodeId : Byte) :
    (command :: nodeId :: payload).length ≤ Config.maxBody := Nat.add_le_add_right h 2

/-- The bytes of a frame after its start byte are those the checksum covers, and the checksum (R63). -/
theorem drop_one_frameOf (body : List Byte) :
    (frameOf body).drop 1 = (lengthByte body :: body) ++ [crc8 (lengthByte body :: body)] := rfl

theorem getLast?_frameOf (body : List Byte) :
    (frameOf body).getLast? = some (crc8 (((frameOf body).drop 1).dropLast)) := by
  rw [drop_one_frameOf, List.dropLast_concat]
  exact List.getLast?_concat (l := Config.startByte :: lengthByte body :: body)

/-! ## FRAME_VALIDATE -/

theorem exec_frameValidate (c : List Byte) (s : State) :
    exec (.frameValidate c) s = .next (s.respond (.validated (validate c))) := rfl

/-- VALIDATE on a body behind its own length byte: the last byte alone decides (R116). -/
theorem validate_of_lengthByte {body : List Byte} (h : body.length ≤ Config.maxBody) (x : Byte) :
    validate (Config.startByte :: lengthByte body :: (body ++ [x])) =
      if x = crc8 (lengthByte body :: body) then .valid body else .crcFail :=
  validate_of_shape (lengthByte_toNat h).symm

/-- Where the shape tests pass, the length byte is that of the bytes between it and the last one (R115, R117). -/
theorem validate_eq_shapeFail_or_exists_body (c : List Byte) :
    validate c = .shapeFail ∨ ∃ (body : List Byte) (x : Byte), body.length ≤ Config.maxBody ∧
      c = Config.startByte :: lengthByte body :: (body ++ [x]) := by
  obtain h | ⟨L, x, body, hsize, hc⟩ := validate_cases c
  · exact .inl h
  · have hfits : body.length ≤ Config.maxBody := hsize ▸ Nat.le_of_lt_succ L.isLt
    exact .inr ⟨body, x, hfits, by rw [lengthByte_eq hsize, hc]⟩

/-- VALID is answered on the frame of the body it answers, and on nothing else (R117). -/
theorem validate_eq_valid_iff {c body : List Byte} :
    validate c = .valid body ↔ body.length ≤ Config.maxBody ∧ c = frameOf body := by
  refine ⟨fun h => ?_, fun ⟨hfits, hc⟩ => hc ▸ validate_frameOf hfits⟩
  obtain hshape | ⟨body', x, hfits, rfl⟩ := validate_eq_shapeFail_or_exists_body c
  · cases hshape.symm.trans h
  · rw [validate_of_lengthByte hfits] at h
    split at h
    next hx =>
      cases h
      exact ⟨hfits, by rw [hx, frameOf]⟩
    next => cases h

/-- CRC_FAIL is answered on a frame with another last byte than its checksum, and on nothing else (R116). -/
theorem validate_eq_crcFail_iff {c : List Byte} :
    validate c = .crcFail ↔ ∃ (body : List Byte) (x : Byte), body.length ≤ Config.maxBody ∧
      c = Config.startByte :: lengthByte body :: (body ++ [x]) ∧ x ≠ crc8 (lengthByte body :: body) := by
  constructor
  · intro h
    obtain hshape | ⟨body, x, hfits, rfl⟩ := validate_eq_shapeFail_or_exists_body c
    · cases hshape.symm.trans h
    · refine ⟨body, x, hfits, rfl, fun hx => ?_⟩
      cases h.symm.trans ((validate_of_lengthByte hfits x).trans (if_pos hx))
  · rintro ⟨body, x, hfits, rfl, hx⟩
    rw [validate_of_lengthByte hfits, if_neg hx]

end Sys2Proof.Machine

open Sys2Proof Sys2Proof.Machine

/-- Settles O21: the answer is the frame of R60 around command, node and payload, whose bytes after the first end in
their own checksum. -/
theorem frameEncodeAnswersTheFrame : Obligations.FrameEncodeAnswersTheFrame := by
  intro command nodeId payload s h
  let body := command :: nodeId :: payload
  have hlength : (frameOf body).length = payload.length + 5 := frameOf_length body
  have hbyte : ((frameOf body).getD 1 0x00#8).toNat = payload.length + 2 :=
    lengthByte_toNat (body_length_le_maxBody h command nodeId)
  have hpayload : ((frameOf body).drop 4).take payload.length = payload := List.take_left
  have hcrc : crc8 ((frameOf body).drop 1) = 0x00#8 := crc8_append_crc8 (lengthByte body :: body)
  refine ⟨frameOf body, exec_frameEncode_of_le h command nodeId s, hlength, ?_, ?_, rfl, rfl, rfl, hpayload, hcrc,
    getLast?_frameOf body⟩
  · rw [hbyte, hlength]
  · rw [hbyte]
    exact Nat.le_add_left 2 payload.length

/-- Settles O22: the fault records its code in the set and answers the attempted length. -/
theorem frameEncodeOverflows : Obligations.FrameEncodeOverflows :=
  fun command nodeId _ s h => ⟨(s.recordFault .bodyOverflow).faults, exec_frameEncode_of_lt h command nodeId s,
    s.mem_recordFault_faults .bodyOverflow, fun hnodup => State.nodup_recordFault_faults hnodup _, rfl⟩

/-- Settles O23, by the one form of a candidate that passes the shape tests, with the last byte free. -/
theorem frameValidateJudgesEveryCandidate : Obligations.FrameValidateJudgesEveryCandidate :=
  fun c s => ⟨validate c, exec_frameValidate c s, fun _ => validate_eq_valid_iff, validate_eq_crcFail_iff⟩

/-- Settles O24: what FRAME_ENCODE answers is the frame of the body, which VALIDATE takes back. -/
theorem validateOfEncode : Obligations.ValidateOfEncode := by
  intro command nodeId payload s h
  refine ⟨_, exec_frameEncode_of_le h command nodeId s, ?_⟩
  rw [exec_frameValidate, validate_frameOf (body_length_le_maxBody h command nodeId)]
  rfl

end

section
/-! SUPPORT. The pass of the model is the relation of R135 (spec/42_reassembler.md R131 to R136): a pass as the
relation describes it exists from every buffer, and it is the one the loop runs. What FEED does is then read off a
pass of the relation. -/

namespace Sys2Proof.Machine

/-! ## One iteration -/

theorem passStep_waitFrame {L : Byte} {rest : List Byte} (long : Config.minBuf ≤ rest.length + 2)
    (part : rest.length + 2 < L.toNat + Config.frameOverhead) :
    passStep (Config.startByte :: L :: rest) = .stop .waitFrame :=
  (passStep_frame long).trans (frameStep_wait part)

theorem passStep_slice {L x : Byte} {body back : List Byte} (size : body.length = L.toNat)
    (long : Config.minBuf ≤ body.length + 3 + back.length) :
    passStep (Config.startByte :: L :: (body ++ x :: back)) =
      if x = crc8 (L :: body) then .go (.accept body) back (some body) else .go .integrityDrop back none := by
  have hlong : Config.minBuf ≤ (body ++ x :: back).length + 2 := by
    rw [List.length_append, List.length_cons]
    omega
  rw [passStep_frame hlong, frameStep_slice size]

/-- An iteration that ends the pass is a pass of the relation. -/
theorem passes_of_passStep_stop {buf : List Byte} {a : PassAction} (h : passStep buf = .stop a) :
    Passes buf [a] [] buf := by
  obtain ⟨short, hs⟩ | ⟨b, rest, rfl, -, -, hs⟩ | ⟨L, rest, rfl, long, part, hs⟩ | ⟨L, x, body, back, rfl, -, -, hs⟩ :=
    passStep_cases buf
  · cases hs.symm.trans h
    exact .waitShort buf short
  · cases hs.symm.trans h
  · cases hs.symm.trans h
    exact .waitFrame L rest long part
  · rw [hs] at h
    split at h <;> cases h

/-- An iteration that takes an action, before a pass of what it leaves. -/
theorem passes_of_passStep_go {buf rest buf' : List Byte} {a : PassAction} {accepted : Option (List Byte)}
    {actions : List PassAction} {bodies : List (List Byte)} (h : passStep buf = .go a rest accepted)
    (more : Passes rest actions bodies buf') : Passes buf (a :: actions) (accepted.toList ++ bodies) buf' := by
  obtain ⟨-, hs⟩ | ⟨b, rest', rfl, long, junk, hs⟩ | ⟨L, rest', rfl, -, -, hs⟩ |
    ⟨L, x, body, back, rfl, long, size, hs⟩ := passStep_cases buf
  · cases hs.symm.trans h
  · cases hs.symm.trans h
    exact .resync b rest buf' actions bodies long junk more
  · cases hs.symm.trans h
  · have hlong : Config.minBuf ≤ body.length + 3 + back.length := by
      simp only [List.length_cons, List.length_append] at long
      omega
    rw [hs] at h
    split at h
    next hx =>
      cases h
      subst hx
      exact .accept L body rest buf' actions bodies size hlong more
    next hx =>
      cases h
      exact .integrityDrop L x body rest buf' actions bodies size hlong hx more

/-! ## The whole pass -/

/-- What the loop leaves and returns is a pass of the relation. -/
theorem passes_pass (buf : List Byte) : Passes buf (pass buf).trace (pass buf).bodies (pass buf).buf := by
  match h : passStep buf with
  | .stop a =>
    rw [pass_stop h]
    exact passes_of_passStep_stop h
  | .go a rest accepted =>
    have shorter : rest.length < buf.length := passStep_go_shorter h
    rw [pass_go h]
    exact passes_of_passStep_go h (passes_pass rest)
termination_by buf.length

/-- A pass of the relation is the one the loop runs, so there is only one. -/
theorem pass_eq_of_passes {buf buf' : List Byte} {actions : List PassAction} {bodies : List (List Byte)}
    (h : Passes buf actions bodies buf') : pass buf = { buf := buf', bodies := bodies, trace := actions } := by
  induction h with
  | waitShort buf short => exact pass_stop (passStep_short short)
  | resync b rest buf' actions bodies long junk more ih =>
    rw [pass_go (passStep_resync long junk), ih]
    rfl
  | waitFrame L rest long part => exact pass_stop (passStep_waitFrame long part)
  | accept L body rest buf' actions bodies size long more ih =>
    rw [pass_go ((passStep_slice size long).trans (if_pos rfl)), ih]
    rfl
  | integrityDrop L c body rest buf' actions bodies size long bad more ih =>
    rw [pass_go ((passStep_slice size long).trans (if_neg bad)), ih]
    rfl

/-! ## FEED -/

theorem exec_feed (chunk : List Byte) (s : State) : exec (.feed chunk) s = .next (s.feedChunk chunk) := rfl

theorem exec_feedByte (x : Byte) (s : State) : exec (.feedByte x) s = .next (s.feedChunk [x]) := rfl

@[simp] theorem State.feedChunk_buf (s : State) (chunk : List Byte) :
    (s.feedChunk chunk).buf = (pass (s.buf ++ chunk)).buf := rfl
@[simp] theorem State.feedChunk_traces (s : State) (chunk : List Byte) :
    (s.feedChunk chunk).traces = s.traces ++ [(pass (s.buf ++ chunk)).trace] := rfl
@[simp] theorem State.feedChunk_responses (s : State) (chunk : List Byte) :
    (s.feedChunk chunk).responses = s.responses ++
      [.fed (pass (s.buf ++ chunk)).bodies (readingsOf (pass (s.buf ++ chunk)).bodies)] := rfl

/-- The whole next state of FEED, read off any pass of the relation (R140). -/
theorem exec_feed_of_passes {s : State} {chunk buf' : List Byte} {actions : List PassAction}
    {bodies : List (List Byte)} (h : Passes (s.buf ++ chunk) actions bodies buf') :
    exec (.feed chunk) s =
      .next { s with
              buf := buf', traces := s.traces ++ [actions],
              responses := s.responses ++ [.fed bodies (readingsOf bodies)] } := by
  have hpass : pass (append s.buf chunk) = { buf := buf', bodies := bodies, trace := actions } := pass_eq_of_passes h
  rw [exec_feed, State.feedChunk, hpass]
  rfl

end Sys2Proof.Machine

open Sys2Proof Sys2Proof.Machine

/-- Settles O25: the loop's own pass is one of the relation, and the relation leaves it no choice. -/
theorem feedIsOnePass : Obligations.FeedIsOnePass :=
  fun chunk s => ⟨⟨_, _, _, passes_pass (s.buf ++ chunk)⟩, fun _ _ _ h => exec_feed_of_passes h⟩

/-- Settles O26: FEED_BYTE is defined through the same function as FEED, on the chunk of one byte. -/
theorem feedByteIsFeedOfOneByte : Obligations.FeedByteIsFeedOfOneByte :=
  fun x s => ⟨s.feedChunk [x], exec_feedByte x s, exec_feed [x] s⟩

/-- Settles O35: the chunk lies behind the length byte, so the buffer with it is still a partial frame. -/
theorem partialFrameWaits : Obligations.PartialFrameWaits := by
  intro chunk s L rest hbuf long part
  have hpasses : Passes (s.buf ++ chunk) [.waitFrame] [] (s.buf ++ chunk) := by
    rw [hbuf] at long part ⊢
    exact .waitFrame L (rest ++ chunk) long part
  exact exec_feed_of_passes hpasses

/-- Settles O36: the short wait is the first test of an iteration. -/
theorem shortBufferWaits : Obligations.ShortBufferWaits :=
  fun chunk s short => exec_feed_of_passes (.waitShort (s.buf ++ chunk) short)

end

section
/-! SUPPORT. What a pass leaves (spec/42_reassembler.md R137, R138, R143): a stable buffer, within the capacity, after
one wait behind at most as many actions as bytes were taken; and a stable buffer waits. -/

namespace Sys2Proof.Machine

/-! ## Stable buffers -/

/-- A stable buffer is short, or the start of a frame whose end has not come. -/
theorem stable_cases {buf : List Byte} (h : Stable buf) :
    buf.length < Config.minBuf ∨ ∃ L rest, buf = Config.startByte :: L :: rest ∧
      Config.minBuf ≤ rest.length + 2 ∧ rest.length + 2 < L.toNat + Config.frameOverhead := by
  by_cases short : buf.length < Config.minBuf
  · exact .inl short
  obtain ⟨head, part⟩ := h.resolve_left short
  match buf, short, head, part with
  | b :: L :: rest, short, head, part =>
    cases Option.some.inj head
    exact .inr ⟨L, rest, rfl, Nat.not_lt.mp short, part⟩
  | [_], short, _, _ => exact absurd (show 1 < 5 by decide) short

/-- The length byte of a partial frame is at most 255, so one byte is left of the capacity (R143). -/
theorem length_lt_rxBufCap_of_stable {buf : List Byte} (h : Stable buf) : buf.length < Config.rxBufCap := by
  obtain short | ⟨L, rest, rfl, -, part⟩ := stable_cases h
  · exact Nat.lt_of_lt_of_le short (by decide)
  · exact Nat.lt_of_lt_of_le part (Nat.add_le_add_right (Nat.le_of_lt_succ L.isLt) 3)

/-- The next pass over a stable buffer is one wait: the phase of the buffer is that of the wait (R138). -/
theorem passes_of_stable {buf : List Byte} (h : Stable buf) : ∃ wait, Passes buf [wait] [] buf := by
  obtain short | ⟨L, rest, rfl, long, part⟩ := stable_cases h
  · exact ⟨.waitShort, .waitShort buf short⟩
  · exact ⟨.waitFrame, .waitFrame L rest long part⟩

theorem phase_nil : phase [] = .idle := rfl

theorem phase_of_short {buf : List Byte} (nonempty : buf ≠ []) (short : buf.length < Config.minBuf) :
    phase buf = .shortWait := by
  rw [phase, if_neg (mt List.length_eq_zero_iff.mp nonempty), if_pos short]

theorem phase_of_length_lt {buf : List Byte} (short : buf.length < Config.minBuf) :
    phase buf = .idle ∨ phase buf = .shortWait := by
  by_cases hnil : buf = []
  · exact .inl (hnil ▸ phase_nil)
  · exact .inr (phase_of_short hnil short)

theorem phase_of_partial {L : Byte} {rest : List Byte} (long : Config.minBuf ≤ rest.length + 2)
    (part : rest.length + 2 < L.toNat + Config.frameOverhead) :
    phase (Config.startByte :: L :: rest) = .frameWait := by
  have hnonempty : (Config.startByte :: L :: rest).length ≠ 0 := Nat.succ_ne_zero _
  have hlong : ¬ (Config.startByte :: L :: rest).length < Config.minBuf := Nat.not_lt.mpr long
  have hhead : ¬ (Config.startByte :: L :: rest).head? ≠ some Config.startByte := not_not_intro rfl
  have hpart : (Config.startByte :: L :: rest).length < announcedLength (Config.startByte :: L :: rest) := part
  rw [phase, if_neg hnonempty, if_neg hlong, if_neg hhead, if_pos hpart]

/-- The two readings of R138 agree: a stable buffer is in one of the three phases that wait. -/
theorem phase_of_stable {buf : List Byte} (h : Stable buf) :
    phase buf = .idle ∨ phase buf = .shortWait ∨ phase buf = .frameWait := by
  obtain short | ⟨L, rest, rfl, long, part⟩ := stable_cases h
  · exact (phase_of_length_lt short).imp_right .inl
  · exact .inr (.inr (phase_of_partial long part))

/-! ## What a pass leaves and how long it is -/

theorem stable_of_passes {buf buf' : List Byte} {actions : List PassAction} {bodies : List (List Byte)}
    (h : Passes buf actions bodies buf') : Stable buf' := by
  induction h with
  | waitShort buf short => exact .inl short
  | waitFrame L rest long part => exact .inr ⟨rfl, part⟩
  | resync _ _ _ _ _ _ _ _ ih | accept _ _ _ _ _ _ _ _ _ ih | integrityDrop _ _ _ _ _ _ _ _ _ _ _ ih => exact ih

theorem stable_pass_buf (buf : List Byte) : Stable (pass buf).buf := stable_of_passes (passes_pass buf)

/-- An action that is no wait and takes a byte, before actions that end in their first wait. -/
theorem ends_with_wait_cons {a : PassAction} {actions : List PassAction} {left after total : Nat}
    (ha : a.isWait = false) (shorter : after < total)
    (h : ∃ (before : List PassAction) (wait : PassAction), actions = before ++ [wait] ∧ wait.isWait = true ∧
      (∀ a ∈ before, a.isWait = false) ∧ before.length + left ≤ after) :
    ∃ (before : List PassAction) (wait : PassAction), a :: actions = before ++ [wait] ∧ wait.isWait = true ∧
      (∀ a ∈ before, a.isWait = false) ∧ before.length + left ≤ total := by
  obtain ⟨before, wait, rfl, hwait, hbefore, hle⟩ := h
  refine ⟨a :: before, wait, rfl, hwait, List.forall_mem_cons.mpr ⟨ha, hbefore⟩, ?_⟩
  rw [List.length_cons]
  omega

/-- The last action of a pass is its first wait, and each action before it takes at least one byte (R137). -/
theorem passes_ends_with_wait {buf buf' : List Byte} {actions : List PassAction} {bodies : List (List Byte)}
    (h : Passes buf actions bodies buf') :
    ∃ (before : List PassAction) (wait : PassAction), actions = before ++ [wait] ∧ wait.isWait = true ∧
      (∀ a ∈ before, a.isWait = false) ∧ before.length + buf'.length ≤ buf.length := by
  induction h with
  | waitShort buf short => exact ⟨[], .waitShort, rfl, rfl, List.forall_mem_nil _, (Nat.zero_add _).le⟩
  | waitFrame L rest long part => exact ⟨[], .waitFrame, rfl, rfl, List.forall_mem_nil _, (Nat.zero_add _).le⟩
  | resync b rest buf' actions bodies long junk more ih => exact ends_with_wait_cons rfl (Nat.lt_succ_self _) ih
  | accept L body rest buf' actions bodies size long more ih =>
    refine ends_with_wait_cons rfl ?_ ih
    simp only [List.length_cons, List.length_append]
    omega
  | integrityDrop L c body rest buf' actions bodies size long bad more ih =>
    refine ends_with_wait_cons rfl ?_ ih
    simp only [List.length_cons, List.length_append]
    omega

end Sys2Proof.Machine

open Sys2Proof Sys2Proof.Machine

/-- Settles O27: every pass ends in a wait, on a buffer that has that wait's form. -/
theorem feedLeavesStableBuffer : Obligations.FeedLeavesStableBuffer :=
  fun chunk s =>
    have stable : Stable (s.feedChunk chunk).buf := stable_pass_buf (s.buf ++ chunk)
    ⟨s.feedChunk chunk, exec_feed chunk s, stable, phase_of_stable stable⟩

/-- Settles O28: every action before the wait takes a byte, in the pass of FEED as in any pass of the relation. -/
theorem passLengthIsBounded : Obligations.PassLengthIsBounded := by
  refine ⟨fun chunk s => ?_, fun _ _ _ _ h => passes_ends_with_wait h⟩
  obtain ⟨before, wait, htrace, hwait, hbefore, hle⟩ := passes_ends_with_wait (passes_pass (s.buf ++ chunk))
  refine ⟨s.feedChunk chunk, before, wait, exec_feed chunk s, ?_, hwait, hbefore, ?_⟩
  · rw [State.feedChunk_traces, htrace]
  · rw [List.length_append, List.length_singleton, ← List.length_append]
    omega

/-- Settles O31: a stable buffer only waits. -/
theorem emptyFeedKeepsStableBuffer : Obligations.EmptyFeedKeepsStableBuffer := by
  intro s hs
  obtain ⟨wait, hpasses⟩ := passes_of_stable hs
  rw [← List.append_nil s.buf] at hpasses
  exact ⟨_, exec_feed_of_passes hpasses, List.append_nil _, rfl, rfl⟩

end

section
/-! SUPPORT. The pass may be split anywhere (spec/42_reassembler.md R141): what a pass leaves, with more bytes behind
it, is passed on as if the bytes had been there from the start. -/

namespace Sys2Proof.Machine

/-! ## Two passes put together -/

/-- The wait of the first pass falls away where the second goes on: no earlier iteration looks past the bytes it
takes. -/
theorem passes_append {buf mid buf' chunk : List Byte} {actions₁ actions₂ : List PassAction}
    {bodies₁ bodies₂ : List (List Byte)} (h₁ : Passes buf actions₁ bodies₁ mid)
    (h₂ : Passes (mid ++ chunk) actions₂ bodies₂ buf') :
    ∃ actions, Passes (buf ++ chunk) actions (bodies₁ ++ bodies₂) buf' := by
  induction h₁ with
  | waitShort buf short => exact ⟨actions₂, h₂⟩
  | waitFrame L rest long part => exact ⟨actions₂, h₂⟩
  | resync b rest mid actions bodies long junk more ih =>
    obtain ⟨tail, htail⟩ := ih h₂
    have hlong : Config.minBuf ≤ (b :: rest ++ chunk).length :=
      long.trans (List.length_append ▸ Nat.le_add_right _ _)
    exact ⟨_, .resync b (rest ++ chunk) buf' tail _ hlong junk htail⟩
  | accept L body rest mid actions bodies size long more ih =>
    obtain ⟨tail, htail⟩ := ih h₂
    have hlong : Config.minBuf ≤ body.length + 3 + (rest ++ chunk).length := by
      rw [List.length_append]
      omega
    refine ⟨.accept body :: tail, ?_⟩
    simpa using Passes.accept L body (rest ++ chunk) buf' tail _ size hlong htail
  | integrityDrop L c body rest mid actions bodies size long bad more ih =>
    obtain ⟨tail, htail⟩ := ih h₂
    have hlong : Config.minBuf ≤ body.length + 3 + (rest ++ chunk).length := by
      rw [List.length_append]
      omega
    refine ⟨.integrityDrop :: tail, ?_⟩
    simpa using Passes.integrityDrop L c body (rest ++ chunk) buf' tail _ size hlong bad htail

theorem pass_append (buf chunk : List Byte) :
    (pass (buf ++ chunk)).buf = (pass ((pass buf).buf ++ chunk)).buf ∧
      (pass (buf ++ chunk)).bodies = (pass buf).bodies ++ (pass ((pass buf).buf ++ chunk)).bodies := by
  obtain ⟨actions, h⟩ := passes_append (passes_pass buf) (passes_pass ((pass buf).buf ++ chunk))
  rw [pass_eq_of_passes h]
  exact ⟨rfl, rfl⟩

theorem readingsOf_append (bodies₁ bodies₂ : List (List Byte)) :
    readingsOf (bodies₁ ++ bodies₂) = readingsOf bodies₁ ++ readingsOf bodies₂ := List.flatMap_append

/-! ## FEED in two parts and byte by byte -/

theorem State.feedChunk_feedChunk_buf (s : State) (a b : List Byte) :
    ((s.feedChunk a).feedChunk b).buf = (s.feedChunk (a ++ b)).buf := by
  rw [s.feedChunk_buf (a ++ b), ← List.append_assoc, (pass_append _ b).1]
  rfl

/-- The bodies of FEED in two parts. -/
theorem pass_bodies_append (buf a b : List Byte) :
    (pass (buf ++ (a ++ b))).bodies = (pass (buf ++ a)).bodies ++ (pass ((pass (buf ++ a)).buf ++ b)).bodies := by
  rw [← List.append_assoc, (pass_append _ b).2]

/-- FEED_BYTE of each byte leaves what FEED leaves, and answers its bodies one part a byte. The first byte makes the
buffer stable, so only a chunk of no bytes needs one to start from. -/
theorem runAll_feedByte (chunk : List Byte) (s : State) (h : chunk ≠ [] ∨ Stable s.buf) :
    ∃ (u : State) (parts : List (List (List Byte))), runAll (chunk.map Instr.feedByte) s = .next u ∧
      u.buf = (pass (s.buf ++ chunk)).buf ∧ parts.length = chunk.length ∧
      u.responses = s.responses ++ parts.map (fun bodies => Response.fed bodies (readingsOf bodies)) ∧
      (pass (s.buf ++ chunk)).bodies = parts.flatten := by
  induction chunk generalizing s with
  | nil =>
    obtain ⟨wait, hwait⟩ := passes_of_stable (h.resolve_left (not_not_intro rfl))
    rw [List.append_nil, pass_eq_of_passes hwait]
    exact ⟨s, [], rfl, rfl, rfl, (List.append_nil _).symm, rfl⟩
  | cons x chunk ih =>
    obtain ⟨u, parts, hrun, hbuf, hlen, hres, hparts⟩ := ih (s.feedChunk [x]) (.inr (stable_pass_buf _))
    refine ⟨u, (pass (s.buf ++ [x])).bodies :: parts, hrun, ?_, congrArg (· + 1) hlen, ?_, ?_⟩
    · exact hbuf.trans (s.feedChunk_feedChunk_buf [x] chunk)
    · rw [hres, State.feedChunk_responses, List.append_assoc, List.singleton_append, List.map_cons]
    · rw [List.flatten_cons, ← hparts]
      exact pass_bodies_append s.buf [x] chunk

theorem readingsOf_flatten (parts : List (List (List Byte))) :
    readingsOf parts.flatten = parts.flatMap readingsOf := by
  induction parts with
  | nil => rfl
  | cons bodies parts ih => rw [List.flatten_cons, readingsOf_append, ih, List.flatMap_cons]

end Sys2Proof.Machine

open Sys2Proof Sys2Proof.Machine

/-- Settles O29: the pass of the whole is the first pass and then the second over what it left. -/
theorem feedSplitsAnywhere : Obligations.FeedSplitsAnywhere := by
  intro a b s
  refine ⟨s.feedChunk a, (s.feedChunk a).feedChunk b, s.feedChunk (a ++ b), _, _, _, _, exec_feed a s,
    s.feedChunk_responses a, exec_feed b _, State.feedChunk_responses _ b, exec_feed _ s,
    s.feedChunk_feedChunk_buf a b, ?_⟩
  rw [State.feedChunk_responses, ← readingsOf_append, pass_bodies_append, State.feedChunk_buf]

/-- Settles O30, by induction on the chunk: each byte is fed to the buffer the bytes before it left. -/
theorem feedIsFeedByteOfEachByte : Obligations.FeedIsFeedByteOfEachByte := by
  intro chunk s h
  obtain ⟨u, parts, hrun, hbuf, hlen, hres, hparts⟩ := runAll_feedByte chunk s h
  refine ⟨s.feedChunk chunk, u, parts.map fun bodies => (bodies, readingsOf bodies), exec_feed chunk s, hrun,
    hbuf.symm, ?_, ?_, ?_⟩
  · rw [List.length_map, hlen]
  · rw [hres, List.map_map]
    rfl
  · rw [State.feedChunk_responses, hparts, readingsOf_flatten, List.flatMap_map, List.flatMap_map, List.flatMap_id']

end

section
/-! SUPPORT. Byte-serial use (spec/42_reassembler.md R142 to R144): what one more byte behind a stable buffer makes
the pass do, and how many readings one body holds (spec/43_tlv_parser.md R168). -/

namespace Sys2Proof.Machine

/-! ## One byte behind a stable buffer -/

/-- The extraction of a whole frame that leaves less than MIN_BUF bytes. -/
theorem passes_of_whole_frame {L : Byte} {rest : List Byte} (long : Config.minBuf ≤ rest.length + 2)
    (whole : L.toNat + 3 ≤ rest.length + 2) (left : rest.length - (L.toNat + 1) < Config.minBuf) :
    (∃ body : List Byte, body.length = L.toNat ∧ Passes (Config.startByte :: L :: rest) [.accept body, .waitShort]
        [body] (rest.drop (L.toNat + 1))) ∨
      Passes (Config.startByte :: L :: rest) [.integrityDrop, .waitShort] [] (rest.drop (L.toNat + 1)) := by
  have hL : L.toNat < rest.length := by omega
  have hrest : rest.take L.toNat ++ rest[L.toNat] :: rest.drop (L.toNat + 1) = rest := by
    rw [List.cons_getElem_drop_succ, List.take_append_drop]
  have size : (rest.take L.toNat).length = L.toNat := List.length_take_of_le hL.le
  have hlong : Config.minBuf ≤ (rest.take L.toNat).length + 3 + (rest.drop (L.toNat + 1)).length := by
    rw [size, List.length_drop]
    omega
  have short : Passes (rest.drop (L.toNat + 1)) [.waitShort] [] (rest.drop (L.toNat + 1)) :=
    .waitShort _ (List.length_drop ▸ left)
  by_cases hx : rest[L.toNat] = crc8 (L :: rest.take L.toNat)
  · have h := Passes.accept L _ _ _ _ _ size hlong short
    rw [← hx, hrest] at h
    exact .inl ⟨_, size, h⟩
  · have h := Passes.integrityDrop L _ _ _ _ _ _ size hlong hx short
    rw [hrest] at h
    exact .inr h

/-- Where one more byte gives the pass a head to look at: a stable buffer of four bytes or more. -/
theorem stable_head_cases {buf : List Byte} (h : Stable buf) :
    buf.length ≤ 3 ∨ (∃ b rest, buf = b :: rest ∧ buf.length = 4 ∧ b ≠ Config.startByte) ∨
      ∃ L rest, buf = Config.startByte :: L :: rest ∧ 4 ≤ buf.length ∧
        (buf.length = 4 ∨ buf.length < L.toNat + 3) := by
  by_cases h3 : buf.length ≤ 3
  · exact .inl h3
  obtain short | ⟨L, rest, rfl, long, part⟩ := stable_cases h
  · have h4 : buf.length = 4 := Nat.le_antisymm (Nat.le_of_lt_succ short) (Nat.not_le.mp h3)
    match buf, h4 with
    | b :: L :: rest, h4 =>
      by_cases hb : b = Config.startByte
      · exact .inr (.inr ⟨L, rest, by rw [hb], h4.ge, .inl h4⟩)
      · exact .inr (.inl ⟨b, L :: rest, rfl, h4, hb⟩)
  · exact .inr (.inr ⟨L, rest, rfl, Nat.not_le.mp h3, .inr part⟩)

/-- What FEED_BYTE makes of a stable buffer, by the rows of R144: it stays short; the head of a buffer of five bytes
is dropped; the frame stays partial; the frame is whole, and less than MIN_BUF bytes are left. -/
theorem passes_append_byte_cases {buf : List Byte} (x : Byte) (h : Stable buf) :
    (buf.length ≤ 3 ∧ Passes (buf ++ [x]) [.waitShort] [] (buf ++ [x])) ∨
    (∃ b rest, buf = b :: rest ∧ buf.length = 4 ∧ b ≠ Config.startByte ∧
      Passes (buf ++ [x]) [.resyncDrop b, .waitShort] [] (rest ++ [x])) ∨
    (∃ L rest, buf = Config.startByte :: L :: rest ∧ 4 ≤ buf.length ∧ buf.length + 1 < L.toNat + 3 ∧
      Passes (buf ++ [x]) [.waitFrame] [] (buf ++ [x])) ∨
    (∃ L rest, buf = Config.startByte :: L :: rest ∧ 4 ≤ buf.length ∧ L.toNat + 3 ≤ buf.length + 1 ∧
      (buf.length = 4 ∨ buf.length + 1 = L.toNat + 3) ∧
      ((∃ body : List Byte, body.length = L.toNat ∧ Passes (buf ++ [x]) [.accept body, .waitShort] [body]
          ((buf ++ [x]).drop (L.toNat + 3))) ∨
        Passes (buf ++ [x]) [.integrityDrop, .waitShort] [] ((buf ++ [x]).drop (L.toNat + 3)))) := by
  have hlength : (buf ++ [x]).length = buf.length + 1 := List.length_append
  obtain h3 | ⟨b, rest, rfl, h4, junk⟩ | ⟨L, rest, rfl, h4, hpart⟩ := stable_head_cases h
  · exact .inl ⟨h3, .waitShort _ (hlength ▸ Nat.lt_succ_of_le (Nat.succ_le_succ h3))⟩
  · have short : (rest ++ [x]).length < Config.minBuf := by
      rw [List.length_append]
      exact h4.trans_lt (Nat.lt_succ_self 4)
    have long : Config.minBuf ≤ (b :: (rest ++ [x])).length := hlength.trans (congrArg (· + 1) h4) |>.ge
    exact .inr (.inl ⟨b, rest, rfl, h4, junk, .resync b (rest ++ [x]) _ _ _ long junk (.waitShort _ short)⟩)
  · have hrest : (rest ++ [x]).length + 2 = (Config.startByte :: L :: rest).length + 1 := hlength
    have long : Config.minBuf ≤ (rest ++ [x]).length + 2 := hrest ▸ Nat.succ_le_succ h4
    by_cases part : (Config.startByte :: L :: rest).length + 1 < L.toNat + 3
    · exact .inr (.inr (.inl ⟨L, rest, rfl, h4, part, .waitFrame L (rest ++ [x]) long (hrest ▸ part)⟩))
    · have whole : L.toNat + 3 ≤ (Config.startByte :: L :: rest).length + 1 := Nat.not_lt.mp part
      have left : (rest ++ [x]).length - (L.toNat + 1) < 5 := by omega
      exact .inr (.inr (.inr ⟨L, rest, rfl, h4, whole, by omega, passes_of_whole_frame long (hrest ▸ whole) left⟩))

theorem head_and_length_byte {buf rest : List Byte} {L : Byte} (h : buf = Config.startByte :: L :: rest) :
    buf[0]? = some 0x55#8 ∧ buf.getD 1 0x00#8 = L := by
  rw [h]
  exact ⟨rfl, rfl⟩

theorem exec_feedByte_of_passes {s : State} {x : Byte} {buf' : List Byte} {actions : List PassAction}
    {bodies : List (List Byte)} (h : Passes (s.buf ++ [x]) actions bodies buf') :
    exec (.feedByte x) s =
      .next { s with
              buf := buf', traces := s.traces ++ [actions],
              responses := s.responses ++ [.fed bodies (readingsOf bodies)] } :=
  exec_feed_of_passes h

/-! ## The readings of one body -/

/-- Each reading takes a whole entry (R167). -/
theorem tlvEntrySize_mul_parseEntries_length_le (nodeId : Byte) (count : Nat) (entries : List Byte) :
    Config.tlvEntrySize * (parseEntries nodeId count entries).1.length ≤ entries.length := by
  fun_induction parseEntries nodeId count entries with
  | case1 entries => exact Nat.zero_le _
  | case2 count tn hi lo age rest r ih =>
    rw [List.length_cons, Nat.mul_succ]
    exact Nat.add_le_add_right ih Config.tlvEntrySize
  | case3 entries count hentries => exact Nat.zero_le _

/-- Command, node and count stand before the entries (R65). -/
theorem tlvEntrySize_mul_readings_length_le (body : List Byte) :
    Config.tlvEntrySize * (dispatch body).readings.length ≤ body.length - 3 := by
  match body with
  | command :: nodeId :: payload =>
    rw [dispatch]
    split
    next =>
      cases payload with
      | nil => exact Nat.zero_le _
      | cons count entries => exact tlvEntrySize_mul_parseEntries_length_le nodeId count.toNat entries
    next =>
      split <;> exact Nat.zero_le _
  | [_] => exact Nat.zero_le _
  | [] => exact Nat.zero_le _

theorem readings_length_le {body : List Byte} (h : body.length ≤ Config.maxBody) :
    (dispatch body).readings.length ≤ Config.maxReadingsPerBody := by
  have := tlvEntrySize_mul_readings_length_le body
  simp only [Config.tlvEntrySize, Config.maxBody, Config.maxReadingsPerBody] at *
  omega

theorem readingsOf_singleton (body : List Byte) : readingsOf [body] = (dispatch body).readings :=
  List.append_nil _

end Sys2Proof.Machine

open Sys2Proof Sys2Proof.Machine

/-- Settles O32: of the two actions the pass can take the last is a wait, and the one body fits its length byte. -/
theorem feedByteTakesOneAction : Obligations.FeedByteTakesOneAction := by
  intro x s hs
  obtain ⟨-, h⟩ | ⟨b, _, -, -, -, h⟩ | ⟨_, _, -, -, -, h⟩ | ⟨L, _, -, -, -, -, ⟨body, hsize, h⟩ | h⟩ :=
    passes_append_byte_cases x hs
  · exact ⟨_, _, _, _, exec_feedByte_of_passes h, rfl, rfl, Nat.zero_le _, Nat.zero_le _, Nat.zero_le _⟩
  · exact ⟨_, _, _, _, exec_feedByte_of_passes h, rfl, rfl, le_rfl, Nat.zero_le _, Nat.zero_le _⟩
  · exact ⟨_, _, _, _, exec_feedByte_of_passes h, rfl, rfl, Nat.zero_le _, Nat.zero_le _, Nat.zero_le _⟩
  · refine ⟨_, _, _, _, exec_feedByte_of_passes h, rfl, rfl, le_rfl, le_rfl, ?_⟩
    rw [readingsOf_singleton]
    exact readings_length_le (hsize ▸ Nat.le_of_lt_succ L.isLt)
  · exact ⟨_, _, _, _, exec_feedByte_of_passes h, rfl, rfl, le_rfl, Nat.zero_le _, Nat.zero_le _⟩

/-- Settles O33: what a stable buffer lacks to the capacity is at least one byte, and the pass leaves it stable. -/
theorem feedByteKeepsWithinCapacity : Obligations.FeedByteKeepsWithinCapacity := by
  intro x s hs
  have hleft : (s.feedChunk [x]).buf.length < 258 := length_lt_rxBufCap_of_stable (stable_pass_buf _)
  refine ⟨?_, s.feedChunk [x], exec_feedByte x s, Nat.le_of_lt_succ hleft⟩
  rw [List.length_append]
  exact length_lt_rxBufCap_of_stable hs

/-- Settles O34, row by row: the length of the buffer, its head and its length byte name the row. -/
theorem feedByteTransitions : Obligations.FeedByteTransitions := by
  intro x s hs
  have hlength : (s.buf ++ [x]).length = s.buf.length + 1 := List.length_append
  obtain ⟨h3, h⟩ | ⟨b, rest, hbuf, h4, junk, h⟩ | ⟨L, rest, hbuf, h4, part, h⟩ |
    ⟨L, rest, hbuf, h4, whole, hleft, h⟩ := passes_append_byte_cases x hs
  · refine ⟨_, _, exec_feedByte_of_passes h, rfl, ?_⟩
    rw [if_pos h3]
    have short : (s.buf ++ [x]).length < Config.minBuf := hlength ▸ Nat.lt_succ_of_le (Nat.succ_le_succ h3)
    exact ⟨rfl, rfl, phase_of_short (List.ne_nil_of_length_eq_add_one hlength) short⟩
  · refine ⟨_, _, exec_feedByte_of_passes h, rfl, ?_⟩
    have hhead : s.buf[0]? ≠ some 0x55#8 := by
      rw [hbuf]
      exact fun h => junk (Option.some.inj h)
    have short : (rest ++ [x]).length < Config.minBuf := by
      rw [hbuf] at h4
      rw [List.length_append]
      exact h4.trans_lt (Nat.lt_succ_self 4)
    rw [if_neg (by omega), if_pos h4, if_pos hhead, hbuf]
    exact ⟨rfl, rfl, phase_of_short (List.append_ne_nil_of_right_ne_nil _ (List.cons_ne_nil x [])) short⟩
  · refine ⟨_, _, exec_feedByte_of_passes h, rfl, ?_⟩
    obtain ⟨hhead, hbyte⟩ := head_and_length_byte hbuf
    have hphase : phase (s.buf ++ [x]) = .frameWait := by
      rw [hbuf] at hlength h4 part ⊢
      exact phase_of_partial (rest := rest ++ [x]) ((Nat.succ_le_succ h4).trans hlength.ge) (hlength.trans_lt part)
    rw [hbyte, if_neg (by omega)]
    by_cases h4' : s.buf.length = 4
    · rw [if_pos h4', if_neg (not_not_intro hhead), if_pos (by omega)]
      exact ⟨rfl, rfl, hphase⟩
    · rw [if_neg h4', if_pos part]
      exact ⟨rfl, rfl, hphase⟩
  · obtain ⟨actions, bodies, h, hactions⟩ : ∃ actions bodies,
        Passes (s.buf ++ [x]) actions bodies ((s.buf ++ [x]).drop (L.toNat + 3)) ∧
          ((∃ body, actions = [.accept body, .waitShort]) ∨ actions = [.integrityDrop, .waitShort]) := by
      obtain ⟨body, -, h⟩ | h := h
      · exact ⟨_, _, h, .inl ⟨body, rfl⟩⟩
      · exact ⟨_, _, h, .inr rfl⟩
    refine ⟨_, actions, exec_feedByte_of_passes h, rfl, ?_⟩
    obtain ⟨hhead, hbyte⟩ := head_and_length_byte hbuf
    have hleft : ((s.buf ++ [x]).drop (L.toNat + 3)).length = s.buf.length + 1 - (L.toNat + 3) := by
      rw [List.length_drop, hlength]
    rw [hbyte, if_neg (by omega)]
    by_cases h4' : s.buf.length = 4
    · have hleft4 : ((s.buf ++ [x]).drop (L.toNat + 3)).length = 2 - L.toNat := by omega
      have short : ((s.buf ++ [x]).drop (L.toNat + 3)).length < 5 := by omega
      rw [if_pos h4', if_neg (not_not_intro hhead), if_neg (by omega)]
      exact ⟨hactions, rfl, hleft4, (phase_of_length_lt short).symm⟩
    · have hnil : (s.buf ++ [x]).drop (L.toNat + 3) = [] := List.eq_nil_of_length_eq_zero (by omega)
      rw [if_neg h4', if_neg (by omega)]
      exact ⟨hactions, hnil, (congrArg phase hnil).trans phase_nil⟩

end

section
/-! SUPPORT. Streams (spec/42_reassembler.md R136, R145, R148; spec/70_reset_and_hazards.md R233): what the pass makes
of a frame, of a frame with one byte changed and of bytes without a start byte, each before any further bytes; and that
it accepts nothing but frames. -/

namespace Sys2Proof.Machine

/-! ## One frame before further bytes -/

/-- A frame of two body bytes or more is never held back by the short wait (R236). -/
theorem minBuf_le_length_frameOf {body : List Byte} (h2 : 2 ≤ body.length) :
    Config.minBuf ≤ (frameOf body).length := by
  rw [frameOf_length]
  exact Nat.add_le_add_right h2 3

theorem passes_frameOf_append {body rest buf' : List Byte} {actions : List PassAction} {bodies : List (List Byte)}
    (h2 : 2 ≤ body.length) (hmax : body.length ≤ Config.maxBody) (more : Passes rest actions bodies buf') :
    Passes (frameOf body ++ rest) (.accept body :: actions) (body :: bodies) buf' := by
  have hlong : 5 ≤ body.length + 3 + rest.length := by omega
  have h := Passes.accept (lengthByte body) body rest buf' actions bodies (lengthByte_toNat hmax).symm hlong more
  simpa [frameOf] using h

/-- A candidate that VALIDATE answers CRC_FAIL is removed whole, and nothing is accepted (R136). -/
theorem passes_crcFail_append {c rest buf' : List Byte} {actions : List PassAction} {bodies : List (List Byte)}
    (hc : validate c = .crcFail) (long : Config.minBuf ≤ c.length) (more : Passes rest actions bodies buf') :
    Passes (c ++ rest) (.integrityDrop :: actions) bodies buf' := by
  obtain ⟨body, x, hmax, rfl, bad⟩ := validate_eq_crcFail_iff.mp hc
  have hlong : Config.minBuf ≤ body.length + 3 + rest.length := by
    simp only [List.length_cons, List.length_append, List.length_nil] at long
    omega
  have h := Passes.integrityDrop (lengthByte body) x body rest buf' actions bodies (lengthByte_toNat hmax).symm hlong
    bad more
  simpa using h

/-! ## Streams of frames and of bytes without a start byte -/

theorem passes_flatMap_frameOf_append {stream : List (List Byte)} {rest buf' : List Byte}
    {actions : List PassAction} {bodies : List (List Byte)}
    (hstream : ∀ b ∈ stream, 2 ≤ b.length ∧ b.length ≤ Config.maxBody) (more : Passes rest actions bodies buf') :
    Passes (stream.flatMap frameOf ++ rest) (stream.map PassAction.accept ++ actions) (stream ++ bodies) buf' := by
  induction stream with
  | nil => exact more
  | cons body stream ih =>
    obtain ⟨⟨h2, hmax⟩, htail⟩ := List.forall_mem_cons.mp hstream
    rw [List.flatMap_cons, List.append_assoc]
    exact passes_frameOf_append h2 hmax (ih htail)

theorem passes_nil : Passes [] [.waitShort] [] [] := .waitShort [] (by decide)

theorem passes_flatMap_frameOf {stream : List (List Byte)}
    (hstream : ∀ b ∈ stream, 2 ≤ b.length ∧ b.length ≤ Config.maxBody) :
    Passes (stream.flatMap frameOf) (stream.map PassAction.accept ++ [.waitShort]) stream [] := by
  simpa using passes_flatMap_frameOf_append hstream passes_nil

/-- Bytes without a start byte are dropped one by one as long as MIN_BUF bytes stand behind them (R132). -/
theorem passes_junk_append {junk rest buf' : List Byte} {actions : List PassAction} {bodies : List (List Byte)}
    (hjunk : Config.startByte ∉ junk) (long : Config.minBuf ≤ rest.length) (more : Passes rest actions bodies buf') :
    Passes (junk ++ rest) (junk.map PassAction.resyncDrop ++ actions) bodies buf' := by
  induction junk with
  | nil => exact more
  | cons b junk ih =>
    have hlong : Config.minBuf ≤ (b :: (junk ++ rest)).length := by
      rw [List.length_cons, List.length_append]
      omega
    exact .resync b (junk ++ rest) buf' _ _ hlong (List.ne_of_not_mem_cons hjunk).symm
      (ih (List.not_mem_of_not_mem_cons hjunk))

/-! ## Nothing but frames is accepted -/

theorem frameOf_isInfix_of_passes {buf buf' : List Byte} {actions : List PassAction} {bodies : List (List Byte)}
    (h : Passes buf actions bodies buf') : ∀ b ∈ bodies, b.length ≤ Config.maxBody ∧ frameOf b <:+: buf := by
  induction h with
  | waitShort buf short => exact List.forall_mem_nil _
  | waitFrame L rest long part => exact List.forall_mem_nil _
  | resync b rest buf' actions bodies long junk more ih =>
    exact fun body hbody => (ih body hbody).imp_right fun h => h.trans (List.suffix_cons b rest).isInfix
  | accept L body rest buf' actions bodies size long more ih =>
    refine List.forall_mem_cons.mpr ⟨⟨size ▸ Nat.le_of_lt_succ L.isLt, [], rest, ?_⟩, fun b hb => ?_⟩
    · simp [frameOf, lengthByte_eq size]
    · refine (ih b hb).imp_right fun h => h.trans ?_
      exact ⟨Config.startByte :: L :: (body ++ [crc8 (L :: body)]), [], by simp⟩
  | integrityDrop L c body rest buf' actions bodies size long bad more ih =>
    refine fun b hb => (ih b hb).imp_right fun h => h.trans ?_
    exact ⟨Config.startByte :: L :: (body ++ [c]), [], by simp⟩

/-- FEED on an empty buffer, read off a pass over the chunk. -/
theorem exec_feed_of_passes_chunk {s : State} {chunk buf' : List Byte} {actions : List PassAction}
    {bodies : List (List Byte)} (hs : s.buf = []) (h : Passes chunk actions bodies buf') :
    exec (.feed chunk) s =
      .next { s with
              buf := buf', traces := s.traces ++ [actions],
              responses := s.responses ++ [.fed bodies (readingsOf bodies)] } :=
  exec_feed_of_passes (hs.symm ▸ h)

end Sys2Proof.Machine

open Sys2Proof Sys2Proof.Machine

/-- Settles O37, by induction on the stream: each frame stands at the head when the one before it is removed. -/
theorem frameStreamIsRecovered : Obligations.FrameStreamIsRecovered :=
  fun _ _ hs hbodies => ⟨_, exec_feed_of_passes_chunk hs (passes_flatMap_frameOf hbodies), rfl, rfl⟩

/-- Settles O38: the changed frame keeps its start and length byte and so its shape, and its checksum does not match;
it is removed whole, and the next frame stands at the head. -/
theorem oneCorruptByteLosesOneFrame : Obligations.OneCorruptByteLosesOneFrame := by
  intro before after hit k v s hs hbodies h2 hk hv
  obtain ⟨hbefore, hhit⟩ := List.forall_mem_append.mp hbodies
  obtain ⟨⟨hhit2, hhitmax⟩, hafter⟩ := List.forall_mem_cons.mp hhit
  have hcrc : validate ((frameOf hit).set k v) = .crcFail := validate_frameOf_set hhitmax h2 hk hv
  have hlong : Config.minBuf ≤ ((frameOf hit).set k v).length := by
    rw [List.length_set]
    exact minBuf_le_length_frameOf hhit2
  have hpasses := passes_flatMap_frameOf_append hbefore
    (passes_crcFail_append hcrc hlong (passes_flatMap_frameOf hafter))
  exact ⟨_, exec_feed_of_passes_chunk hs hpasses, rfl, rfl⟩

/-- Settles O39: the frame keeps at least MIN_BUF bytes behind each byte to drop. -/
theorem resyncFindsTheNextFrame : Obligations.ResyncFindsTheNextFrame := by
  intro junk body s hs hjunk h2 hmax
  have hframe : Passes (frameOf body) [.accept body, .waitShort] [body] [] := by
    simpa using passes_frameOf_append h2 hmax passes_nil
  have hpasses := passes_junk_append hjunk (minBuf_le_length_frameOf h2) hframe
  refine ⟨_, exec_feed_of_passes_chunk hs hpasses, rfl, ?_, rfl⟩
  rw [readingsOf_singleton]

/-- Settles O40, by induction on the pass: an accepted slice is the frame of its body, and every later one stands in
what is left. -/
theorem acceptedBodiesAreFramesOfTheStream : Obligations.AcceptedBodiesAreFramesOfTheStream := by
  intro chunk s
  refine ⟨s.feedChunk chunk, _, _, exec_feed chunk s, s.feedChunk_responses chunk, fun b hb => ?_⟩
  obtain ⟨hmax, front, back, hbuf⟩ := frameOf_isInfix_of_passes (passes_pass (s.buf ++ chunk)) b hb
  exact ⟨hmax, front, back, by rw [← hbuf, List.append_assoc]⟩

end

section
/-! SUPPORT. FRAME_START and RESYNC_DROP run alone (spec/42_reassembler.md R131 to R136, log entry 6): where each
waits, runs its iteration of the pass, or stops. -/

namespace Sys2Proof.Machine

/-! ## The branches of the two rows -/

theorem exec_frameStart_of_short {s : State} (short : s.buf.length < Config.minBuf) :
    exec .frameStart s = .next s.shortWait := by
  rw [exec, execFrameStart, if_pos short]

theorem exec_resyncDrop_of_short {s : State} (x : Byte) (short : s.buf.length < Config.minBuf) :
    exec (.resyncDrop x) s = .next s.shortWait := by
  rw [exec, execResyncDrop, if_pos short]

theorem exec_frameStart_of_head {s : State} (long : Config.minBuf ≤ s.buf.length)
    (head : s.buf.head? = some Config.startByte) : exec .frameStart s = .next (s.runPassStep (frameStep s.buf)) := by
  rw [exec, execFrameStart, if_neg (Nat.not_lt.mpr long), if_pos head]

theorem exec_resyncDrop_of_head {s : State} {x : Byte} (long : Config.minBuf ≤ s.buf.length)
    (head : s.buf.head? = some x) (junk : x ≠ Config.startByte) :
    exec (.resyncDrop x) s = .next (s.runPassStep (resyncStep s.buf)) := by
  rw [exec, execResyncDrop, if_neg (Nat.not_lt.mpr long), if_pos ⟨head, junk⟩]

theorem exec_frameStart_eq_fault_iff (s : State) :
    exec .frameStart s = .fault .rowNotSelected ↔
      Config.minBuf ≤ s.buf.length ∧ s.buf.head? ≠ some Config.startByte := by
  by_cases short : s.buf.length < Config.minBuf
  · rw [exec_frameStart_of_short short]
    exact iff_of_false nofun fun h => absurd short (Nat.not_lt.mpr h.1)
  have long : Config.minBuf ≤ s.buf.length := Nat.not_lt.mp short
  by_cases head : s.buf.head? = some Config.startByte
  · rw [exec_frameStart_of_head long head]
    exact iff_of_false nofun fun h => h.2 head
  · rw [exec, execFrameStart, if_neg short, if_neg head]
    exact iff_of_true rfl ⟨long, head⟩

theorem exec_resyncDrop_eq_fault_iff (x : Byte) (s : State) :
    exec (.resyncDrop x) s = .fault .rowNotSelected ↔
      Config.minBuf ≤ s.buf.length ∧ (s.buf.head? ≠ some x ∨ x = Config.startByte) := by
  by_cases short : s.buf.length < Config.minBuf
  · rw [exec_resyncDrop_of_short x short]
    exact iff_of_false nofun fun h => absurd short (Nat.not_lt.mpr h.1)
  have long : Config.minBuf ≤ s.buf.length := Nat.not_lt.mp short
  by_cases head : s.buf.head? = some x ∧ x ≠ Config.startByte
  · rw [exec_resyncDrop_of_head long head.1 head.2]
    exact iff_of_false nofun fun h => h.2.elim (absurd head.1) head.2
  · rw [exec, execResyncDrop, if_neg short, if_neg head]
    exact iff_of_true rfl ⟨long, (not_and_or.mp head).imp_right not_not.mp⟩

end Sys2Proof.Machine

open Sys2Proof Sys2Proof.Machine

/-- Settles O41: frameStep on the buffer taken apart at the length byte, and where the frame is whole at the checksum
byte. -/
theorem frameStartRunsOneIteration : Obligations.FrameStartRunsOneIteration := by
  intro s L rest hbuf long
  have hexec : exec .frameStart s = .next (s.runPassStep (frameStep (Config.startByte :: L :: rest))) := by
    rw [← hbuf]
    exact exec_frameStart_of_head long (hbuf ▸ rfl)
  refine ⟨fun part => ?_, fun body back x hrest size => ⟨fun hx => ?_, fun hx => ?_⟩⟩
  · rw [hbuf] at part
    rw [hexec, frameStep_wait part]
    rfl
  · rw [hexec, hrest, frameStep_slice size, if_pos hx, ← readingsOf_singleton]
    rfl
  · rw [hexec, hrest, frameStep_slice size, if_neg hx]
    rfl

/-- Settles O44: each row answers exactly in its other two branches. -/
theorem headRowsStopWhereNotSelected : Obligations.HeadRowsStopWhereNotSelected := by
  intro s x
  rw [← List.head?_eq_getElem?]
  exact ⟨exec_frameStart_eq_fault_iff s, exec_resyncDrop_eq_fault_iff x s⟩

/-- Settles O42: the row's own branch drops the head. -/
theorem resyncDropDropsOneByte : Obligations.ResyncDropDropsOneByte := by
  intro s x rest hbuf long junk
  rw [exec_resyncDrop_of_head long (hbuf ▸ rfl) junk, hbuf]
  rfl

/-- Settles O43: the short wait is the first branch of both rows. -/
theorem headRowsWaitOnShortBuffer : Obligations.HeadRowsWaitOnShortBuffer :=
  fun _ x short => ⟨exec_frameStart_of_short short, exec_resyncDrop_of_short x short⟩

end

section
/-! SUPPORT. The invariant of the reachable states (spec/42_reassembler.md R138, R143; spec/10_state.md R23;
spec/60_exceptions.md R207, R208): the records agree with the responses after every answer, and no instruction leaves
an unstable buffer where it found a stable one. -/

namespace Sys2Proof.Machine

/-! ## The records and the responses -/

/-- The part of the invariant that speaks of the records: the fault record is a set that holds BODY_OVERFLOW exactly
when a response has reported it, the mark is set exactly when a response has reported REFUSED (R23, R207, R208). -/
def State.RecordsAgree (s : State) : Prop :=
  s.faults.Nodup ∧ (FaultCode.bodyOverflow ∈ s.faults ↔ s.responses.any Response.isOverflow = true) ∧
    s.runRefused = s.responses.any Response.isRefused

theorem State.inv_iff (s : State) : s.Inv ↔ Stable s.buf ∧ s.RecordsAgree :=
  ⟨fun ⟨stable, _, records⟩ => ⟨stable, records⟩, fun ⟨stable, records⟩ =>
    ⟨stable, length_lt_rxBufCap_of_stable stable, records⟩⟩

theorem State.recordsAgree_answer {s : State} (h : s.RecordsAgree) (r : Response) : (s.answer r).RecordsAgree := by
  obtain ⟨nodup, overflow, mark⟩ := h
  refine ⟨?_, ?_, ?_⟩
  · rw [State.answer_faults]
    split
    next => exact State.nodup_recordFault_faults nodup _
    next => exact nodup
  · simp [overflow, or_comm]
  · simp [mark, Bool.or_comm]

/-- Whatever an instruction does to the buffer, it records what it answers. -/
theorem exec_next_recordsAgree {i : Instr} {s t : State} (h : exec i s = .next t) (hs : s.RecordsAgree) :
    t.RecordsAgree := by
  obtain ⟨buf, passes, r, heffect⟩ := exec_next_hasEffectOn h
  cases h.symm.trans (heffect s rfl)
  exact State.recordsAgree_answer (s := { s with buf := buf, traces := s.traces ++ passes }) hs r

/-! ## The buffer -/

/-- FRAME_START waits on every stable buffer that has the sentinel at its head. -/
theorem exec_frameStart_buf_of_stable {s t : State} (hs : Stable s.buf) (h : exec .frameStart s = .next t) :
    t.buf = s.buf := by
  obtain short | ⟨L, rest, hbuf, long, part⟩ := stable_cases hs
  · cases h.symm.trans (exec_frameStart_of_short short)
    rfl
  · have hexec := exec_frameStart_of_head (s := s) (hbuf ▸ long) (hbuf ▸ rfl)
    rw [hbuf, frameStep_wait part] at hexec
    cases h.symm.trans hexec
    rfl

/-- RESYNC_DROP waits on a short buffer, and stops on the sentinel that any other stable buffer has at its head. -/
theorem exec_resyncDrop_buf_of_stable {x : Byte} {s t : State} (hs : Stable s.buf)
    (h : exec (.resyncDrop x) s = .next t) : t.buf = s.buf := by
  obtain short | ⟨L, rest, hbuf, long, part⟩ := stable_cases hs
  · cases h.symm.trans (exec_resyncDrop_of_short x short)
    rfl
  · have head : s.buf.head? ≠ some x ∨ x = Config.startByte := by
      rw [hbuf]
      exact (ne_or_eq x Config.startByte).imp_left fun junk hx => junk (Option.some.inj hx).symm
    cases h.symm.trans ((exec_resyncDrop_eq_fault_iff x s).mpr ⟨hbuf ▸ long, head⟩)

theorem exec_next_stable {i : Instr} {s t : State} (hs : Stable s.buf) (h : exec i s = .next t) : Stable t.buf := by
  cases hb : touchesBuffer i with
  | false =>
    obtain ⟨r, hr⟩ := exec_eq_answer hb
    cases h.symm.trans (hr s)
    exact hs
  | true =>
    cases i with
    | reset => cases h; exact .inl (Nat.succ_pos 4)
    | feedByte | feed => cases h; exact stable_pass_buf _
    | frameStart => exact exec_frameStart_buf_of_stable hs h ▸ hs
    | resyncDrop => exact exec_resyncDrop_buf_of_stable hs h ▸ hs
    | _ => cases hb

theorem exec_next_inv {i : Instr} {s t : State} (hs : s.Inv) (h : exec i s = .next t) : t.Inv := by
  obtain ⟨stable, records⟩ := s.inv_iff.mp hs
  exact t.inv_iff.mpr ⟨exec_next_stable stable h, exec_next_recordsAgree h records⟩

end Sys2Proof.Machine

open Sys2Proof Sys2Proof.Machine

/-- Settles O12: a step leaves the state, waits, or runs an instruction, and every instruction keeps both halves of the
invariant. -/
theorem stepKeepsInv : Obligations.StepKeepsInv := by
  intro s t hs h
  obtain ⟨-, hstep⟩ | ⟨rest, -, hshort, hstep⟩ | ⟨_, rest, _, i, -, -, -, -, hstep⟩ | ⟨_, _, _, _, -, -, hstep⟩ :=
    step_cases s
  · cases hstep.symm.trans h
    exact hs
  · have hexec := exec_frameStart_of_short (s := { s with port := rest }) hshort
    exact exec_next_inv (s := { s with port := rest }) hs (hexec.trans (hstep.symm.trans h))
  · exact exec_next_inv (s := { s with port := rest }) hs (hstep.symm.trans h)
  · cases hstep.symm.trans h

end

section
/-! SUPPORT. What the dispatcher answers on each class of body, and what the TLV parser reads of a sensor report
(spec/43_tlv_parser.md R160 to R175). -/

namespace Sys2Proof.Machine

/-! ## The classes of bodies -/

theorem dispatch_of_short {body : List Byte} (h : body.length < 2) : dispatch body = dispatchShort := by
  match body, h with
  | [], _ => rfl
  | [_], _ => rfl

theorem dispatch_sensorReport (nodeId : Byte) (payload : List Byte) :
    dispatch (Config.cmdSensorReport :: nodeId :: payload) = dispatchSensorReport nodeId payload := rfl

theorem dispatch_actuator (nodeId : Byte) (payload : List Byte) :
    dispatch (Config.cmdActuator :: nodeId :: payload) = dispatchActuator := rfl

theorem dispatch_unknown {command : Byte} (hs : command ≠ Config.cmdSensorReport) (ha : command ≠ Config.cmdActuator)
    (nodeId : Byte) (payload : List Byte) : dispatch (command :: nodeId :: payload) = dispatchUnknown :=
  (if_neg hs).trans (if_neg ha)

/-- A body the dispatcher looks into has its command at index 0 and its node behind it (R160). -/
theorem exists_command_nodeId {body : List Byte} (h : 2 ≤ body.length) :
    ∃ command nodeId payload, body = command :: nodeId :: payload := by
  match body, h with
  | command :: nodeId :: payload, _ => exact ⟨command, nodeId, payload, rfl⟩

theorem exec_decodeBody_of_dispatch {body : List Byte} {d : Decoded} (h : dispatch body = d) (s : State) :
    exec (.decodeBody body) s = .next { s with responses := s.responses ++ [.decoded d] } := by
  subst h
  rfl

/-! ## The entries of a sensor report -/

/-- The fields of R66 by their bits: type code high, sensor number low, the value big-endian (R67). -/
theorem readingOf_entry (nodeId tn hi lo : Byte) :
    readingOf nodeId (hiNibble tn) (loNibble tn) hi lo =
      ⟨tn.extractLsb' 4 4, nodeId, tn.extractLsb' 0 4, hi ++ lo⟩ := by
  rw [readingOf, rawOf_eq_append, hiNibble, loNibble]

/-- Bytes that do not start with a whole entry are fewer than its four. -/
theorem length_lt_of_no_entry {entries : List Byte}
    (h : ∀ tn hi lo age rest, entries = tn :: hi :: lo :: age :: rest → False) : entries.length < 4 := by
  match entries with
  | [] | [_] | [_, _] | [_, _, _] => simp
  | tn :: hi :: lo :: age :: rest => exact (h tn hi lo age rest rfl).elim

theorem parseEntries_length (nodeId : Byte) (count : Nat) (entries : List Byte) :
    (parseEntries nodeId count entries).1.length = min count (entries.length / 4) := by
  fun_induction parseEntries nodeId count entries with
  | case1 entries => exact (Nat.zero_min _).symm
  | case2 count tn hi lo age rest r ih =>
    simp only [r, List.length_cons, ih]
    omega
  | case3 count entries no =>
    rw [Nat.div_eq_of_lt (length_lt_of_no_entry no)]
    rfl

theorem parseEntries_outcome (nodeId : Byte) (count : Nat) (entries : List Byte) :
    (parseEntries nodeId count entries).2 = if entries.length < 4 * count then .truncated else .complete := by
  fun_induction parseEntries nodeId count entries with
  | case1 entries => rfl
  | case2 count tn hi lo age rest r ih =>
    have shift : (tn :: hi :: lo :: age :: rest).length < 4 * (count + 1) ↔ rest.length < 4 * count :=
      Nat.add_lt_add_iff_right (k := 4)
    simp only [r, ih, shift]
  | case3 count entries no =>
    have := length_lt_of_no_entry no
    rw [if_pos (by omega)]

/-- Reading k is made of the four bytes at 4k, in the order of R66. -/
theorem parseEntries_reading (nodeId : Byte) (count : Nat) (entries : List Byte) :
    ∀ k < (parseEntries nodeId count entries).1.length, ∃ tn hi lo age : Byte,
      (entries.drop (4 * k)).take 4 = [tn, hi, lo, age] ∧
      (parseEntries nodeId count entries).1[k]? = some ⟨tn.extractLsb' 4 4, nodeId, tn.extractLsb' 0 4, hi ++ lo⟩ := by
  fun_induction parseEntries nodeId count entries with
  | case1 entries => exact fun _ h => nomatch h
  | case2 count tn hi lo age rest r ih =>
    intro k h
    cases k with
    | zero => exact ⟨tn, hi, lo, age, rfl, congrArg some (readingOf_entry nodeId tn hi lo)⟩
    | succ k => exact ih k (Nat.lt_of_succ_lt_succ h)
  | case3 count entries no => exact fun _ h => nomatch h

/-- The outcome of TLV_PARSE (R165) from the payload alone: no count byte, an entry that does not fit (R167), or
every declared entry read. -/
theorem tlvParse_outcome (nodeId : Byte) (payload : List Byte) :
    (tlvParse nodeId payload).2 =
      if payload.length = 0 then .noCount
      else if payload.length < 1 + 4 * (payload.getD 0 0x00#8).toNat then .truncated
      else .complete := by
  cases payload with
  | nil => rfl
  | cons count entries =>
    rw [tlvParse, parseEntries_outcome, List.length_cons, if_neg (Nat.succ_ne_zero _), List.getD_cons_zero]
    simp only [Nat.add_comm 1, Nat.add_lt_add_iff_right]

theorem tlvParse_length (nodeId : Byte) (payload : List Byte) :
    (tlvParse nodeId payload).1.length = min (payload.getD 0 0x00#8).toNat ((payload.length - 1) / 4) := by
  cases payload with
  | nil => rfl
  | cons count entries => exact parseEntries_length nodeId count.toNat entries

/-- The count byte stands before the entries (R65). -/
theorem tlvParse_reading (nodeId : Byte) (payload : List Byte) :
    ∀ k < (tlvParse nodeId payload).1.length, ∃ tn hi lo age : Byte,
      (payload.drop (1 + 4 * k)).take 4 = [tn, hi, lo, age] ∧
      (tlvParse nodeId payload).1[k]? = some ⟨tn.extractLsb' 4 4, nodeId, tn.extractLsb' 0 4, hi ++ lo⟩ := by
  cases payload with
  | nil => exact fun _ h => nomatch h
  | cons count entries =>
    simp only [Nat.add_comm 1, List.drop_succ_cons]
    exact parseEntries_reading nodeId count.toNat entries

/-- A payload of at most 253 bytes has no room for 64 entries (R168). -/
theorem tlvParse_truncated {payload : List Byte} (hlen : payload.length ≤ Config.maxPayload)
    (hcount : 64 ≤ (payload.getD 0 0x00#8).toNat) (nodeId : Byte) : (tlvParse nodeId payload).2 = .truncated := by
  have nonempty : payload.length ≠ 0 := by
    intro h
    rw [List.eq_nil_of_length_eq_zero h] at hcount
    exact absurd hcount (by decide)
  rw [tlvParse_outcome, if_neg nonempty, if_pos (by simp only [Config.maxPayload] at hlen; omega)]

/-! ## Entries run alone, and the derived values of a reading -/

theorem State.answerEntry_eq (s : State) (nodeId : Byte) (t n : Nibble) (hi lo : Byte) :
    s.answerEntry nodeId t n hi lo =
      { s with responses := s.responses ++ [.entry (typeName t) ⟨t, nodeId, n, hi ++ lo⟩] } := by
  rw [State.answerEntry, readingOf, rawOf_eq_append, State.respond]

theorem typeName_of_three_le : ∀ {t : Nibble}, 3 ≤ t.toNat → typeName t = .gen := by decide

theorem Reading.value_eq (r : Reading) : r.value = r.raw.toNat / 10 := Rat.mkRat_eq_div _ _

end Sys2Proof.Machine

open Sys2Proof Sys2Proof.Machine

/-- Settles O46: the parser's readings and outcome, by their lemmas. -/
theorem decodeBodyReadsEveryEntryThatFits : Obligations.DecodeBodyReadsEveryEntryThatFits :=
  fun nodeId p s => ⟨(tlvParse nodeId p).1, (tlvParse nodeId p).2,
    exec_decodeBody_of_dispatch (dispatch_sensorReport nodeId p) s, tlvParse_length nodeId p,
    tlvParse_reading nodeId p, tlvParse_outcome nodeId p⟩

/-- Settles O47: a body of 255 bytes has 252 behind its count byte, room for 63 entries. -/
theorem readingsPerBodyAreBounded : Obligations.ReadingsPerBodyAreBounded := by
  intro body s hlen
  refine ⟨dispatch body, exec_decodeBody_of_dispatch rfl s, readings_length_le hlen, fun hcmd hcount => ?_⟩
  match body with
  | command :: nodeId :: payload =>
    cases hcmd
    exact tlvParse_truncated (Nat.le_of_add_le_add_right (b := 2) hlen) hcount nodeId
  | [_] | [] => cases hcount

/-- Settles O45: the dispatcher's cases that read no entry. -/
theorem decodeBodyWithoutReadings : Obligations.DecodeBodyWithoutReadings := by
  intro body s
  refine ⟨fun short => exec_decodeBody_of_dispatch (dispatch_of_short short) s, fun long hcmd => ?_,
    fun long hs ha => ?_⟩
  · obtain ⟨command, nodeId, payload, rfl⟩ := exists_command_nodeId long
    cases hcmd
    exact exec_decodeBody_of_dispatch (dispatch_actuator nodeId payload) s
  · obtain ⟨command, nodeId, payload, rfl⟩ := exists_command_nodeId long
    have unknown := dispatch_unknown (fun h => hs (congrArg some h)) (fun h => ha (congrArg some h)) nodeId payload
    exact exec_decodeBody_of_dispatch unknown s

/-- Settles O48: each row answers the dispatcher's value on a body of the row. -/
theorem commandRowsAreDispatchCases : Obligations.CommandRowsAreDispatchCases := fun nodeId _ payload s =>
  ⟨⟨_, rfl, exec_decodeBody_of_dispatch (dispatch_sensorReport nodeId payload) s⟩,
    ⟨_, rfl, exec_decodeBody_of_dispatch (dispatch_actuator nodeId payload) s⟩,
    fun hs ha => ⟨_, rfl, exec_decodeBody_of_dispatch (dispatch_unknown hs ha nodeId payload) s⟩,
    fun _ short => ⟨_, rfl, exec_decodeBody_of_dispatch (dispatch_of_short short) s⟩⟩

/-- Settles O49: the rows answer their entry, and a type code from 3 on has the name GEN. -/
theorem entryRowsAnswerTheReading : Obligations.EntryRowsAnswerTheReading := by
  intro nodeId hi lo age t n s
  have answers (t : Nibble) := congrArg (Host.Outcome.next : State → Result) (s.answerEntry_eq nodeId t n hi lo)
  refine ⟨answers 0#4, answers 1#4, answers 2#4, fun ht => ?_⟩
  rw [← typeName_of_three_le ht]
  exact answers t

/-- Settles O50: the identifiers compute, and the value is raw / 10 with raw below 65536. -/
theorem sensorIdentifiersAndValues : Obligations.SensorIdentifiersAndValues := by
  refine ⟨by decide, by decide, by decide, fun r => ?_⟩
  have bound : (r.raw.toNat : Rat) ≤ 65535 := by exact_mod_cast Nat.le_of_lt_succ r.raw.isLt
  rw [r.value_eq]
  exact ⟨div_mul_cancel₀ _ (by norm_num), by positivity, by linarith⟩

end

section
/-! SUPPORT. The transmit path (spec/44_transmit_encoders.md R180, R181, R183): the two answers of the sensor builder,
and the body it spells, read back by the dispatcher and byte by byte. -/

namespace Sys2Proof.Machine

/-! ## The body of a sensor report -/

/-- The body around the payload of R180. -/
def sensorBody (nodeId : Byte) (entries : List SensorEntry) : List Byte :=
  Config.cmdSensorReport :: nodeId :: sensorPayload entries

theorem sensorBody_length (nodeId : Byte) (entries : List SensorEntry) :
    (sensorBody nodeId entries).length = 3 + 4 * entries.length := by
  have hentry (e : SensorEntry) : (entryBytes e).length = 4 := rfl
  simp only [sensorBody, sensorPayload, List.length_cons, List.length_flatMap, hentry, List.map_const',
    List.sum_replicate, smul_eq_mul]
  omega

/-- The length test of R180 passes exactly up to 63 entries. -/
theorem maxBody_lt_iff (n : Nat) :
    Config.maxBody < 3 + Config.tlvEntrySize * n ↔ Config.maxReadingsPerBody < n := by
  simp only [Config.maxBody, Config.tlvEntrySize, Config.maxReadingsPerBody]
  omega

theorem sensorBody_length_le_maxBody {entries : List SensorEntry} (h : entries.length ≤ Config.maxReadingsPerBody)
    (nodeId : Byte) : (sensorBody nodeId entries).length ≤ Config.maxBody := by
  rw [sensorBody_length]
  exact Nat.not_lt.mp (mt (maxBody_lt_iff _).mp (Nat.not_lt.mpr h))

theorem frameOf_sensorBody_length (nodeId : Byte) (entries : List SensorEntry) :
    (frameOf (sensorBody nodeId entries)).length = 6 + 4 * entries.length := by
  rw [frameOf_length, sensorBody_length]
  omega

/-! ## The entries -/

theorem entryBytes_eq (e : SensorEntry) :
    entryBytes e = [e.typeCode ++ e.sensorNumber, e.raw.extractLsb' 8 8, e.raw.extractLsb' 0 8, e.age] := by
  rw [entryBytes, packNibbles_eq_append, rawHi, rawLo]

/-- Entry k stands in the four bytes from 4k on, whatever follows the entries (R66). -/
theorem take_drop_flatMap_entryBytes {entries : List SensorEntry} {k : Nat} {e : SensorEntry}
    (h : entries[k]? = some e) (rest : List Byte) :
    ((entries.flatMap entryBytes ++ rest).drop (4 * k)).take 4 = entryBytes e := by
  induction entries generalizing k with
  | nil => cases h
  | cons e' es ih =>
    cases k with
    | zero => cases h; rfl
    | succ k => exact ih h

/-- The reading of an entry as R181 asks for it. -/
def entryReading (nodeId : Byte) (e : SensorEntry) : Reading := ⟨e.typeCode, nodeId, e.sensorNumber, e.raw⟩

/-- The packing of R180 is lossless but for the age byte, which the parser does not read (R166). -/
theorem readingOf_packed (nodeId : Byte) (e : SensorEntry) :
    readingOf nodeId (hiNibble (packNibbles e.typeCode e.sensorNumber))
      (loNibble (packNibbles e.typeCode e.sensorNumber)) (rawHi e.raw) (rawLo e.raw) = entryReading nodeId e := by
  rw [readingOf, hiNibble_packNibbles, loNibble_packNibbles, rawOf_rawHi_rawLo, entryReading]

theorem parseEntries_flatMap_entryBytes (nodeId : Byte) (entries : List SensorEntry) :
    parseEntries nodeId entries.length (entries.flatMap entryBytes) =
      (entries.map (entryReading nodeId), .complete) := by
  induction entries with
  | nil => rfl
  | cons e es ih =>
    simp only [List.flatMap_cons, entryBytes, List.cons_append, List.nil_append, List.length_cons, List.map_cons,
      parseEntries, readingOf_packed]
    rw [ih]

/-- The count of at most 63 entries does not wrap in its byte, so the parser reads all of them (R181). -/
theorem dispatch_sensorBody {entries : List SensorEntry} (h : entries.length ≤ Config.maxReadingsPerBody)
    (nodeId : Byte) :
    dispatch (sensorBody nodeId entries) = ⟨.sensorReport, entries.map (entryReading nodeId), .complete⟩ := by
  have hcount : (BitVec.ofNat 8 entries.length).toNat = entries.length :=
    Nat.mod_eq_of_lt (Nat.lt_of_le_of_lt h (by decide))
  rw [sensorBody, dispatch_sensorReport, dispatchSensorReport, sensorPayload, tlvParse, hcount,
    parseEntries_flatMap_entryBytes]

/-! ## BUILD_SENSOR_FRAME -/

theorem exec_buildSensorFrame_of_le {entries : List SensorEntry} (h : entries.length ≤ Config.maxReadingsPerBody)
    (nodeId : Byte) (s : State) :
    exec (.buildSensorFrame nodeId entries) s = .next (s.respond (.frame (frameOf (sensorBody nodeId entries)))) := by
  have hpayload : (sensorPayload entries).length ≤ Config.maxPayload :=
    Nat.le_of_add_le_add_right (b := 2) (sensorBody_length_le_maxBody h nodeId)
  rw [exec, execBuildSensorFrame, sensorFrame, if_neg (mt (maxBody_lt_iff _).mp (Nat.not_lt.mpr h)),
    encodeFrame_ok hpayload, State.answerFrame, sensorBody]

theorem exec_buildSensorFrame_of_lt {entries : List SensorEntry} (h : Config.maxReadingsPerBody < entries.length)
    (nodeId : Byte) (s : State) :
    exec (.buildSensorFrame nodeId entries) s = .next (s.raiseBodyOverflow (3 + 4 * entries.length)) := by
  rw [exec, execBuildSensorFrame, sensorFrame, if_pos ((maxBody_lt_iff _).mpr h), State.answerFrame]

end Sys2Proof.Machine

open Sys2Proof Sys2Proof.Machine

/-- Settles O51: the frame is that of the report's body, which VALIDATE takes back and the dispatcher reads entry by
entry. -/
theorem buildSensorFrameInvertsTheParser : Obligations.BuildSensorFrameInvertsTheParser :=
  fun nodeId entries s h => ⟨frameOf (sensorBody nodeId entries), sensorBody nodeId entries,
    exec_buildSensorFrame_of_le h nodeId s, frameOf_sensorBody_length nodeId entries,
    congrArg (fun r => Host.Outcome.next (s.respond (.validated r)))
      (validate_frameOf (sensorBody_length_le_maxBody h nodeId)),
    exec_decodeBody_of_dispatch (dispatch_sensorBody h nodeId) s⟩

/-- Settles O52: the entries stand behind the header and the count byte, before the checksum. -/
theorem buildSensorFrameBytes : Obligations.BuildSensorFrameBytes := by
  intro nodeId entries s h
  have hlength : lengthByte (sensorBody nodeId entries) = BitVec.ofNat 8 (3 + 4 * entries.length) := by
    rw [lengthByte, sensorBody_length]
  refine ⟨_, exec_buildSensorFrame_of_le h nodeId s, rfl, congrArg some hlength, rfl, rfl, rfl, fun k e he => ?_⟩
  rw [← entryBytes_eq, Nat.add_comm 5]
  exact take_drop_flatMap_entryBytes he _

/-- Settles O53: the fault records its code in the set and answers the attempted length. -/
theorem buildSensorFrameOverflows : Obligations.BuildSensorFrameOverflows :=
  fun nodeId _ s h => ⟨(s.recordFault .bodyOverflow).faults, exec_buildSensorFrame_of_lt h nodeId s,
    s.mem_recordFault_faults .bodyOverflow, fun hnodup => State.nodup_recordFault_faults hnodup _⟩

/-- Settles O55: a byte that passes none of the three mode tests. -/
theorem invalidModeIsAnError : Obligations.InvalidModeIsAnError :=
  fun nodeId actuatorId _ pwm s hoff hon hpwm =>
    ⟨exec_buildActuatorFrame_of_not_mode hoff hon hpwm nodeId actuatorId pwm s, rfl⟩

end

section
/-! SUPPORT. A step with nothing to serve (spec/60_exceptions.md R217). -/

namespace Sys2Proof.Machine

/-- Between requests the core rests: the buffer and everything else stay (R217). -/
theorem step_of_port_nil {s : State} (hp : s.port = []) : step s = .next s := by
  simp only [step, hp]

end Sys2Proof.Machine

open Sys2Proof Sys2Proof.Machine

/-- Settles O6: the equation of step on an empty port. -/
theorem stepWithoutRequestChangesNothing : Obligations.StepWithoutRequestChangesNothing :=
  fun _ hp => step_of_port_nil hp

end

section
/-! SUPPORT. The RESET request (spec/70_reset_and_hazards.md R230). -/

namespace Sys2Proof.Machine

/-- RESET empties the buffer and answers OK; it takes no operand and reads nothing of the state (R230). -/
theorem exec_reset (s : State) : exec .reset s = .next ((s.setBuf []).respond .done) := by
  rw [exec, execReset]

end Sys2Proof.Machine

open Sys2Proof Sys2Proof.Machine

/-- Settles O14: the reset state's buffer is the empty one, whose phase is IDLE. -/
theorem resetLeavesEmptyBuffer : Obligations.ResetLeavesEmptyBuffer :=
  ⟨rfl, phase_nil, rfl⟩

/-- Settles O15: what RESET does is one write of the buffer and one response, which write no other field. -/
theorem resetEmptiesTheBuffer : Obligations.ResetEmptiesTheBuffer := by
  intro s
  rw [exec_reset, State.respond, State.setBuf]

end
